-- ==== Sys2Proof/Word.lean ====
section
/-! DEFINITION. The words of the block: a byte, a byte string, and the 16-bit and 32-bit fields of the wire (R8). -/

namespace Sys2Proof

/-- A byte, an unsigned integer 0..255 (R8). -/
abbrev Byte := BitVec 8

/-- A 16-bit field of the wire; `toInt` is its two's-complement reading (R8). -/
abbrev Word16 := BitVec 16

/-- A 32-bit field of the wire, or the bits of a binary32 number (R8). -/
abbrev Word32 := BitVec 32

/-- A byte string: index 0 first (R8). -/
abbrev Bytes := List Byte

end Sys2Proof
end

