-- ==== Sys2Proof/Config.lean ====
section
/-! DEFINITION. The parameters of the block (R6, R26) and its one free value: the transport's unlisted answers (R65). -/

namespace Sys2Proof

/-- Number of logical channels and of sequence counters, `NCHAN` (R6). -/
abbrev nchan : Nat := 6

/-- Entries of the activity confidence array, `CONF_LEN` (R6, R35). -/
abbrev confLen : Nat := 9

/-- The OPEN parameters of R6, "supplied at session construction" and never written afterwards (R26). -/
structure Config where
  /-- `CEILING`: the most bytes one bus transaction may carry (R64). -/
  ceiling : Nat
  /-- `CAPACITY`: the most payload bytes one deframe retains (R73). -/
  capacity : Nat
  /-- `FAIL_THRESHOLD`: the count of consecutive failed operations at which the automatic reset fires (R229). -/
  failThreshold : Nat
  /-- Q exponent of accelerometer words (R28). -/
  qAccel : Nat
  /-- Q exponent of linear-acceleration words (R29). -/
  qLinAccel : Nat
  /-- Q exponent of gyroscope words (R30). -/
  qGyro : Nat
  /-- Q exponent of magnetic-field words (R31). -/
  qMag : Nat
  /-- Q exponent of the quaternion words i, j, k, real (R32). -/
  qRot : Nat
  /-- Q exponent of the radian-accuracy word: OPEN without default, `none` while it has not been given
  (R6, R214, R292). DEDUCED, safe: log 4. -/
  qRotAcc : Option Nat
  /-- `SEQ_CLEAR_ON_SOFT_RESET`: whether the soft reset zeroes the sequence table (R154). -/
  seqClearOnSoftReset : Bool
  /-- `REPLAY_ORDER` as plain data: each listed order is the order in which the set of its own ids is re-sent;
  a set with no listed order is re-sent in ascending order, the default (R6, R228). DESIGN CHOICE, safe: log 6. -/
  replayOrders : List (List Byte)
deriving DecidableEq, Repr

/-- The default values of R6. -/
def Config.default : Config where
  ceiling := 32
  capacity := 128
  failThreshold := 3
  qAccel := 8
  qLinAccel := 8
  qGyro := 9
  qMag := 4
  qRot := 14
  qRotAcc := none
  seqClearOnSoftReset := true
  replayOrders := []

/-- One answer of the Transport Adapter, before the block has compared it with what it asked for (R61, R62, R63). -/
inductive Answer where
  /-- The transaction failed; the error carries no cause (R63). -/
  | error
  /-- The transaction succeeded. For a read these are the bytes returned; for a write they are not looked at. -/
  | ok (bytes : Bytes)
deriving DecidableEq, Repr, Inhabited

/-- The answers of the transport that no list gives: "inputs the block does not control and the spec does not
constrain" (R65, U16); none where the transaction never completes and no result arrives any more (R299, U10). A free
value, it has no body: nothing can evaluate it. DESIGN CHOICE, safe: log 2. -/
opaque Config.freeAnswer : Nat → Option Answer

end Sys2Proof
end

