-- ==== Sys2Proof/Syntax.lean ====
section
/-! DEFINITION. The operations of the block: one constructor of `Instr` for each row of spec/opcode_table.json (R112). -/

namespace Sys2Proof

/-- The six named channels, "used both as a wire field and as a dispatch key" (R92). -/
inductive Channel where
  | command
  | executable
  | control
  | reports
  | wakeReports
  | gyroRv
deriving DecidableEq, Repr

/-- The 4-byte wire header, field by field (R90). -/
structure Header where
  /-- Bits 14..0 of the length field: the total packet bytes including the header (R91). -/
  length : BitVec 15
  /-- Bit 15 of the length field (R91). -/
  continuation : Bool
  /-- Header byte 2 (R92). -/
  channel : Byte
  /-- Header byte 3 (R93). -/
  sequence : Byte
deriving DecidableEq, Repr

/-- The operations of R112, parts A (inbound packets), B (outbound packets), the header row, and C (named operations),
in the table's order. An inbound row's operand is the retained payload (R160); an outbound row's operands are its
fields that are neither fixed nor stamped by the sequencer (R93, log 13). -/
inductive Instr where
  /-- `IN.PIDR` (R162). -/
  | inPidr (payload : Bytes)
  /-- `IN.CMDR` (R163, R164). -/
  | inCmdr (payload : Bytes)
  /-- `IN.CTRL.OTHER` (R165). -/
  | inCtrlOther (payload : Bytes)
  /-- `IN.ACCEL` (R174). -/
  | inAccel (payload : Bytes)
  /-- `IN.GYRO` (R175). -/
  | inGyro (payload : Bytes)
  /-- `IN.MAG` (R176). -/
  | inMag (payload : Bytes)
  /-- `IN.LINACCEL` (R177). -/
  | inLinAccel (payload : Bytes)
  /-- `IN.ROTVEC` (R178). -/
  | inRotVec (payload : Bytes)
  /-- `IN.GAMEROTVEC` (R179). -/
  | inGameRotVec (payload : Bytes)
  /-- `IN.STEPS` (R180). -/
  | inSteps (payload : Bytes)
  /-- `IN.STABILITY` (R181). -/
  | inStability (payload : Bytes)
  /-- `IN.ACTIVITY` (R182). -/
  | inActivity (payload : Bytes)
  /-- `IN.SUB.OTHER` (R183, R184). -/
  | inSubOther (payload : Bytes)
  /-- `IN.REPORTS.OTHER` (R167). -/
  | inReportsOther (payload : Bytes)
  /-- `IN.CH0` (R168). -/
  | inCh0 (payload : Bytes)
  /-- `IN.CH.OTHER` (R169): channel 1, 4, 5 or 6..255. -/
  | inChOther (channel : Byte) (payload : Bytes)
  /-- `OUT.SETF` (R99): the interval is the u32 of microseconds that stands in the packet (R205). -/
  | outSetf (reportId : Byte) (intervalMicros specificConfig : Word32)
  /-- `OUT.SRST` (R100). -/
  | outSrst
  /-- `OUT.PIDQ` (R101). -/
  | outPidq
  /-- `HEADER` (R90). -/
  | header (h : Header)
  /-- `open` (R222). -/
  | openSession
  /-- `enable` (R225). -/
  | enable (reportId : Byte) (intervalMillis : Nat) (specificConfig : Word32)
  /-- `poll` (R226). -/
  | poll
  /-- `resetSequence` (R223). -/
  | resetSequence
  /-- `drain` (R224). -/
  | drain
  /-- `replay` (R228). -/
  | replay
  /-- `account` (R229). -/
  | account (failedNow : Bool)
  /-- `frame` (R130). -/
  | frame (channel sequence : Byte) (payload : Bytes)
  /-- `send` (R132). -/
  | send (channel : Byte) (payload : Bytes)
  /-- `deframe` (R134). -/
  | deframe
  /-- `nextSequence` (R150). -/
  | nextSequence (channel : Byte)
  /-- `decode` (R160). -/
  | decode (channel : Byte) (payload : Bytes)
  /-- `buildSetFeature` (R200). -/
  | buildSetFeature (reportId : Byte) (intervalMillis : Nat) (specificConfig : Word32)
  /-- `buildSoftReset` (R202). -/
  | buildSoftReset
  /-- `buildProductIdRequest` (R203). -/
  | buildProductIdRequest
  /-- `dequantize` (R210): the 16 bits of the i16 and the Q exponent. -/
  | dequantize (raw : Word16) (q : Int)
deriving DecidableEq, Repr

/-- `enable r ms` stands for `enable r ms 0` (R121). -/
abbrev Instr.enableDefault (reportId : Byte) (intervalMillis : Nat) : Instr := .enable reportId intervalMillis 0

/-- `buildSetFeature(r, ms)` stands for `buildSetFeature(r, ms, 0)` (R121). -/
abbrev Instr.buildSetFeatureDefault (reportId : Byte) (intervalMillis : Nat) : Instr :=
  .buildSetFeature reportId intervalMillis 0

end Sys2Proof
end

