-- ==== Sys2Proof/WellFormed.lean ====
section
/-! DEFINITION. Which operands the rows of R112 admit: an inbound row's payload must be one that the row matches.
The domain of a named operation is not checked here: the operation refuses outside it, as its rule says (R266). -/

namespace Sys2Proof

/-- A payload a deframe can deliver: at least one byte (R135) and at most 32763 (R95). -/
def payloadInRange (p : Bytes) : Bool := decide (1 ≤ p.length) && decide (p.length ≤ 32763)

/-- `payload[0]` is the given report id. -/
def startsWith (id : Byte) (p : Bytes) : Bool := payloadInRange p && p[0]? == some id

/-- An input report (`payload[0] = 0xFB`) with the given sub-report id at `payload[5]` (R104). -/
def isSubReport (sub : Byte) (p : Bytes) : Bool := startsWith 0xFB p && p[5]? == some sub

/-- The nine sub-report ids that are decoded (R97, R183). -/
def decodedSubIds : List Byte := [0x01, 0x02, 0x03, 0x04, 0x05, 0x08, 0x11, 0x13, 0x1E]

/-- The operands of the instruction are ones its row of R112 admits. -/
def Instr.wellFormed : Instr → Bool
  | .inPidr p => startsWith 0xF8 p
  | .inCmdr p => startsWith 0xF1 p
  | .inCtrlOther p => payloadInRange p && p[0]? != some 0xF8 && p[0]? != some 0xF1
  | .inAccel p => isSubReport 0x01 p
  | .inGyro p => isSubReport 0x02 p
  | .inMag p => isSubReport 0x03 p
  | .inLinAccel p => isSubReport 0x04 p
  | .inRotVec p => isSubReport 0x05 p
  | .inGameRotVec p => isSubReport 0x08 p
  | .inSteps p => isSubReport 0x11 p
  | .inStability p => isSubReport 0x13 p
  | .inActivity p => isSubReport 0x1E p
  | .inSubOther p => startsWith 0xFB p && decodedSubIds.all (fun sub => p[5]? != some sub)
  | .inReportsOther p => payloadInRange p && p[0]? != some 0xFB
  | .inCh0 p => payloadInRange p
  | .inChOther ch p => payloadInRange p && ch != 0 && ch != 2 && ch != 3
  | .outSetf _ _ _ => true
  | .outSrst => true
  | .outPidq => true
  | .header _ => true
  | .openSession => true
  | .enable _ _ _ => true
  | .poll => true
  | .resetSequence => true
  | .drain => true
  | .replay => true
  | .account _ => true
  | .frame _ _ _ => true
  | .send _ _ => true
  | .deframe => true
  | .nextSequence _ => true
  | .decode _ _ => true
  | .buildSetFeature _ _ _ => true
  | .buildSoftReset => true
  | .buildProductIdRequest => true
  | .dequantize _ _ => true

end Sys2Proof
end

