-- ==== Sys2Proof/Decode.lean ====
section
/-! DEFINITION. Byte order and field assembly (R66, R67), the wire header (R90), the dispatch of inbound packets
(R111, R112, R161), the decoder from bytes to `Instr`, the encoder after it, the textual syntax of the host operations
(R120), and the laying out of a row of spec/opcode_table.json. -/

namespace Sys2Proof

/-! ### Byte order (R66, R67) and reads of the payload space (R74) -/

/-- `MemRead(addr, n)`: the `n` bytes at `addr`, or no value if any lies outside the string (R9, R74). -/
def memRead (s : Bytes) (addr n : Nat) : Option Bytes :=
  if addr + n ≤ s.length then some ((s.drop addr).take n) else none

/-- `le16(s, i)`: little-endian, no value if a byte is outside `s` (R67). -/
def le16 (s : Bytes) (i : Nat) : Option Word16 :=
  match memRead s i 2 with
  | some [b0, b1] => some (b1 ++ b0)
  | _ => none

/-- `le32(s, i)`: little-endian, no value if a byte is outside `s` (R67). -/
def le32 (s : Bytes) (i : Nat) : Option Word32 :=
  match memRead s i 4 with
  | some [b0, b1, b2, b3] => some (b3 ++ b2 ++ b1 ++ b0)
  | _ => none

/-- `bytes_le32(v)`: least significant byte first (R67). -/
def bytesLe32 (v : Word32) : Bytes :=
  [v.extractLsb' 0 8, v.extractLsb' 8 8, v.extractLsb' 16 8, v.extractLsb' 24 8]

/-- `sext_16(v)`: the i16 with the same 16 bits (R9, R67). -/
def sext16 (v : Word16) : Int := if v.toNat < 32768 then v.toNat else v.toNat - 65536

/-! ### Constants (R92, R96, R97, R98) -/

/-- The number of a named channel (R92). -/
def Channel.code : Channel → Byte
  | .command => 0
  | .executable => 1
  | .control => 2
  | .reports => 3
  | .wakeReports => 4
  | .gyroRv => 5

/-- The channel with a given number; none for 6..255, which are not named (R116). -/
def Channel.ofCode (b : Byte) : Option Channel :=
  [Channel.command, .executable, .control, .reports, .wakeReports, .gyroRv].find? (fun c => c.code == b)

/-- Report id COMMAND_RESPONSE (R96). -/
abbrev idCommandResponse : Byte := 0xF1

/-- Report id COMMAND_REQUEST, never built and never decoded (R96, R123). -/
abbrev idCommandRequest : Byte := 0xF2

/-- Report id PRODUCT_ID_RESPONSE (R96). -/
abbrev idProductIdResponse : Byte := 0xF8

/-- Report id PRODUCT_ID_REQUEST (R96). -/
abbrev idProductIdRequest : Byte := 0xF9

/-- Report id BASE_TIMESTAMP (R96). -/
abbrev idBaseTimestamp : Byte := 0xFB

/-- Report id SET_FEATURE_COMMAND (R96). -/
abbrev idSetFeature : Byte := 0xFD

/-- The soft-reset payload byte (R100). -/
abbrev softResetByte : Byte := 0x01

/-- Command id ME_CALIBRATE (R98). -/
abbrev meCalibrate : Byte := 7

/-! ### The wire header (R90, R91) -/

/-- The u16 `raw`: continuation flag in bit 15, total length in bits 14..0 (R91). -/
def Header.raw (h : Header) : Word16 := BitVec.ofBool h.continuation ++ h.length

/-- The 4 bytes `[lenLSB, lenMSB, channel, sequence]` (R90). -/
def Header.bytes (h : Header) : Bytes :=
  [h.raw.extractLsb' 0 8, h.raw.extractLsb' 8 8, h.channel, h.sequence]

/-- The header that 4 bytes are (R90); none for any other number of bytes. -/
def Header.read : Bytes → Option Header
  | [l, m, c, s] =>
    some { length := m.extractLsb' 0 7 ++ l, continuation := m.getLsbD 7, channel := c, sequence := s }
  | _ => none

/-- A packet with its header, continuation flag 0 (R94, R131); meant for payloads of at most 32763 bytes (R95). -/
def packetBytes (channel sequence : Byte) (payload : Bytes) : Bytes :=
  Header.bytes { length := BitVec.ofNat 15 (payload.length + 4), continuation := false,
                 channel := channel, sequence := sequence } ++ payload

/-! ### The dispatch map -/

/-- The sixteen rows of R112 part A, in match order. -/
inductive InRow where
  | pidr
  | cmdr
  | ctrlOther
  | accel
  | gyro
  | mag
  | linAccel
  | rotVec
  | gameRotVec
  | steps
  | stability
  | activity
  | subOther
  | reportsOther
  | ch0
  | chOther
deriving DecidableEq, Repr

/-- The row of an input report by its sub-report id; an absent id goes to `IN.SUB.OTHER` (R112 row 13, R166). -/
def subReportRow : Option Byte → InRow
  | none => .subOther
  | some sub =>
    if sub = 0x01 then .accel
    else if sub = 0x02 then .gyro
    else if sub = 0x03 then .mag
    else if sub = 0x04 then .linAccel
    else if sub = 0x05 then .rotVec
    else if sub = 0x08 then .gameRotVec
    else if sub = 0x11 then .steps
    else if sub = 0x13 then .stability
    else if sub = 0x1E then .activity
    else .subOther

/-- The dispatch of R161 as it is written there: channel, then `payload[0]`, then `payload[5]`.
None only for an empty payload, which a deframe never delivers (R135). -/
def classify (channel : Byte) (payload : Bytes) : Option InRow :=
  match payload with
  | [] => none
  | p0 :: _ => some <|
    if channel = Channel.control.code then
      if p0 = idProductIdResponse then .pidr
      else if p0 = idCommandResponse then .cmdr
      else .ctrlOther
    else if channel = Channel.reports.code then
      if p0 = idBaseTimestamp then subReportRow payload[5]?
      else .reportsOther
    else if channel = Channel.command.code then .ch0
    else .chOther

/-- One line of the map: the 24-bit match and mask over the dispatch word (R111). -/
structure MapRow where
  row : InRow
  pattern : BitVec 24
  mask : BitVec 24
deriving DecidableEq, Repr

/-- R112 part A, match and mask as the table gives them. -/
def inboundMap : List MapRow :=
  [⟨.pidr, 0x02F800, 0xFFFF00⟩, ⟨.cmdr, 0x02F100, 0xFFFF00⟩, ⟨.ctrlOther, 0x020000, 0xFF0000⟩,
   ⟨.accel, 0x03FB01, 0xFFFFFF⟩, ⟨.gyro, 0x03FB02, 0xFFFFFF⟩, ⟨.mag, 0x03FB03, 0xFFFFFF⟩,
   ⟨.linAccel, 0x03FB04, 0xFFFFFF⟩, ⟨.rotVec, 0x03FB05, 0xFFFFFF⟩, ⟨.gameRotVec, 0x03FB08, 0xFFFFFF⟩,
   ⟨.steps, 0x03FB11, 0xFFFFFF⟩, ⟨.stability, 0x03FB13, 0xFFFFFF⟩, ⟨.activity, 0x03FB1E, 0xFFFFFF⟩,
   ⟨.subOther, 0x03FB00, 0xFFFF00⟩, ⟨.reportsOther, 0x030000, 0xFF0000⟩, ⟨.ch0, 0x000000, 0xFF0000⟩,
   ⟨.chOther, 0x000000, 0x000000⟩]

/-- The dispatch word `W = channel * 65536 + payload[0] * 256 + payload[5]` (R111); an absent byte is written 0 here
and `MapRow.matchesPacket` keeps it from matching. -/
def dispatchWord (channel : Byte) (payload : Bytes) : BitVec 24 :=
  channel ++ payload[0]?.getD 0 ++ payload[5]?.getD 0

/-- A row matches when `(W & mask) = match`, "and a row whose mask covers an absent byte does not match" (R111). -/
def MapRow.matchesPacket (r : MapRow) (channel : Byte) (payload : Bytes) : Bool :=
  (payload[0]?.isSome || r.mask.extractLsb' 8 8 == 0) &&
  (payload[5]?.isSome || r.mask.extractLsb' 0 8 == 0) &&
  (dispatchWord channel payload &&& r.mask == r.pattern)

/-- "Rows are tried in the order of rule R112 and the first that matches is taken" (R111). -/
def classifyByMap (channel : Byte) (payload : Bytes) : Option InRow :=
  (inboundMap.find? (fun r => r.matchesPacket channel payload)).map (·.row)

/-- The instruction of a row, with its operands. -/
def InRow.instr (r : InRow) (channel : Byte) (payload : Bytes) : Instr :=
  match r with
  | .pidr => .inPidr payload
  | .cmdr => .inCmdr payload
  | .ctrlOther => .inCtrlOther payload
  | .accel => .inAccel payload
  | .gyro => .inGyro payload
  | .mag => .inMag payload
  | .linAccel => .inLinAccel payload
  | .rotVec => .inRotVec payload
  | .gameRotVec => .inGameRotVec payload
  | .steps => .inSteps payload
  | .stability => .inStability payload
  | .activity => .inActivity payload
  | .subOther => .inSubOther payload
  | .reportsOther => .inReportsOther payload
  | .ch0 => .inCh0 payload
  | .chOther => .inChOther channel payload

/-! ### The decoder -/

/-- What a byte string is taken for: a packet the block receives, a packet it sends, or the 4 bytes of a header.
The same bytes mean different things in the two directions (R96, R113). -/
inductive Form where
  | inbound
  | outbound
  | header
deriving DecidableEq, Repr

/-- Why a byte string is no instruction of the table. -/
inductive DecodeError where
  /-- Fewer than 4 bytes, or (for a header alone) not exactly 4 (R90). -/
  | noHeader
  /-- The length field is not the number of bytes (R94). -/
  | lengthMismatch
  /-- There is no payload byte to dispatch on (R111, R135). -/
  | emptyPacket
  /-- An outbound packet with the continuation flag set, which the block never builds (R131). -/
  | continuationSet
  /-- None of the three outbound patterns of R112 part B. -/
  | notOutbound
deriving DecidableEq, Repr

/-- An inbound packet: the length field must say how many bytes there are (R94); the continuation flag and the
sequence byte are not looked at (R118, R93). -/
def decodeInbound (bytes : Bytes) : Except DecodeError Instr :=
  match Header.read (bytes.take 4) with
  | none => .error .noHeader
  | some h =>
    if h.length.toNat ≠ bytes.length then .error .lengthMismatch
    else
      match classify h.channel (bytes.drop 4) with
      | none => .error .emptyPacket
      | some r => .ok (r.instr h.channel (bytes.drop 4))

/-- The payload of a set-feature packet (R99): the fixed bytes must be as R117 says. -/
def decodeSetFeature (payload : Bytes) : Option Instr :=
  match payload with
  | [id, r, z2, z3, z4, i0, i1, i2, i3, b0, b1, b2, b3, c0, c1, c2, c3] =>
    if id = idSetFeature ∧ z2 = 0 ∧ z3 = 0 ∧ z4 = 0 ∧ b0 = 0 ∧ b1 = 0 ∧ b2 = 0 ∧ b3 = 0 then
      some (.outSetf r (i3 ++ i2 ++ i1 ++ i0) (c3 ++ c2 ++ c1 ++ c0))
    else none
  | _ => none

/-- An outbound packet: one of the three patterns of R112 part B. -/
def decodeOutbound (bytes : Bytes) : Except DecodeError Instr :=
  match Header.read (bytes.take 4) with
  | none => .error .noHeader
  | some h =>
    if h.continuation then .error .continuationSet
    else if h.length.toNat ≠ bytes.length then .error .lengthMismatch
    else if h.channel = Channel.executable.code ∧ bytes.drop 4 = [softResetByte] then .ok .outSrst
    else if h.channel = Channel.control.code ∧ bytes.drop 4 = [idProductIdRequest, 0x00] then .ok .outPidq
    else if h.channel = Channel.control.code then
      match decodeSetFeature (bytes.drop 4) with
      | some i => .ok i
      | none => .error .notOutbound
    else .error .notOutbound

/-- The 4 bytes of a header alone (R90). -/
def decodeHeader (bytes : Bytes) : Except DecodeError Instr :=
  match Header.read bytes with
  | some h => .ok (.header h)
  | none => .error .noHeader

/-- The decoder, total on any bytes, rejecting by name. -/
def decode (f : Form) (bytes : Bytes) : Except DecodeError Instr :=
  match f with
  | .inbound => decodeInbound bytes
  | .outbound => decodeOutbound bytes
  | .header => decodeHeader bytes

/-! ### The encoder -/

/-- The payload of a set-feature packet, `batchInterval` always 0 (R99, R117). -/
def setFeaturePayload (reportId : Byte) (intervalMicros specificConfig : Word32) : Bytes :=
  [idSetFeature, reportId, 0, 0, 0] ++ bytesLe32 intervalMicros ++ [0, 0, 0, 0] ++ bytesLe32 specificConfig

/-- The bytes of an instruction, with the sequence byte that its sender gave it (R93); a header carries its own.
None for the named operations, which have no binary form (R112 part C). -/
def encode (i : Instr) (sequence : Byte) : Option (Form × Bytes) :=
  match i with
  | .inPidr p => some (.inbound, packetBytes Channel.control.code sequence p)
  | .inCmdr p => some (.inbound, packetBytes Channel.control.code sequence p)
  | .inCtrlOther p => some (.inbound, packetBytes Channel.control.code sequence p)
  | .inAccel p => some (.inbound, packetBytes Channel.reports.code sequence p)
  | .inGyro p => some (.inbound, packetBytes Channel.reports.code sequence p)
  | .inMag p => some (.inbound, packetBytes Channel.reports.code sequence p)
  | .inLinAccel p => some (.inbound, packetBytes Channel.reports.code sequence p)
  | .inRotVec p => some (.inbound, packetBytes Channel.reports.code sequence p)
  | .inGameRotVec p => some (.inbound, packetBytes Channel.reports.code sequence p)
  | .inSteps p => some (.inbound, packetBytes Channel.reports.code sequence p)
  | .inStability p => some (.inbound, packetBytes Channel.reports.code sequence p)
  | .inActivity p => some (.inbound, packetBytes Channel.reports.code sequence p)
  | .inSubOther p => some (.inbound, packetBytes Channel.reports.code sequence p)
  | .inReportsOther p => some (.inbound, packetBytes Channel.reports.code sequence p)
  | .inCh0 p => some (.inbound, packetBytes Channel.command.code sequence p)
  | .inChOther ch p => some (.inbound, packetBytes ch sequence p)
  | .outSetf r ms cfg => some (.outbound, packetBytes Channel.control.code sequence (setFeaturePayload r ms cfg))
  | .outSrst => some (.outbound, packetBytes Channel.executable.code sequence [softResetByte])
  | .outPidq => some (.outbound, packetBytes Channel.control.code sequence [idProductIdRequest, 0x00])
  | .header h => some (.header, h.bytes)
  | .openSession => none
  | .enable _ _ _ => none
  | .poll => none
  | .resetSequence => none
  | .drain => none
  | .replay => none
  | .account _ => none
  | .frame _ _ _ => none
  | .send _ _ => none
  | .deframe => none
  | .nextSequence _ => none
  | .decode _ _ => none
  | .buildSetFeature _ _ _ => none
  | .buildSoftReset => none
  | .buildProductIdRequest => none
  | .dequantize _ _ => none

/-! ### Rows of spec/opcode_table.json as numbers -/

/-- The `n` bytes of a number, the first the least significant. -/
def numberBytes (n w : Nat) : Bytes := (List.range n).map (fun k => BitVec.ofNat 8 (w >>> (8 * k)))

/-- The payload that a dispatch word stands for: `payload[0]`, `payload[5]`, every other byte 0, 20 bytes in all, the
longest minimum length of R184 (log 9). -/
def dispatchPayload (p0 p5 : Byte) : Bytes := [p0, 0, 0, 0, 0, p5] ++ List.replicate 14 0

/-- How the hardware stores a word of the table: a 24-bit dispatch word (R111) as an inbound packet on its channel;
32 bits as a header (R90); 40, 48 and 168 bits as the three outbound packets (R112 part B), byte 0 first. -/
def tableWordBytes (nbits w : Nat) : Option (Form × Bytes) :=
  if nbits = 24 then
    some (.inbound, packetBytes (BitVec.ofNat 8 (w >>> 16)) 0
      (dispatchPayload (BitVec.ofNat 8 (w >>> 8)) (BitVec.ofNat 8 w)))
  else if nbits = 32 then some (.header, numberBytes 4 w)
  else if nbits = 40 then some (.outbound, numberBytes 5 w)
  else if nbits = 48 then some (.outbound, numberBytes 6 w)
  else if nbits = 168 then some (.outbound, numberBytes 21 w)
  else none

/-- The instruction the decoder reads from a word of spec/opcode_table.json. -/
def decodeTableWord (nbits w : Nat) : Option Instr :=
  match tableWordBytes nbits w with
  | none => none
  | some (f, bytes) =>
    match decode f bytes with
    | .ok i => some i
    | .error _ => none

/-! ### The textual syntax of the host operations (R120, R121; log 24) -/

/-- The value of a digit in base 16, upper or lower case. -/
def hexDigit (c : Char) : Option Nat :=
  if '0' ≤ c ∧ c ≤ '9' then some (c.toNat - 48)
  else if 'a' ≤ c ∧ c ≤ 'f' then some (c.toNat - 87)
  else if 'A' ≤ c ∧ c ≤ 'F' then some (c.toNat - 55)
  else none

/-- The number that digits of a base write, most significant first, after the value read so far. -/
def digitsFrom (base : Nat) : Nat → List Char → Option Nat
  | acc, [] => some acc
  | acc, c :: cs =>
    match hexDigit c with
    | some d => if d < base then digitsFrom base (base * acc + d) cs else none
    | none => none

/-- "Numbers are decimal or `0x` hexadecimal" (R120); at least one digit. -/
def parseNumber : List Char → Option Nat
  | [] => none
  | ['0', 'x'] => none
  | '0' :: 'x' :: cs => digitsFrom 16 0 cs
  | cs => digitsFrom 10 0 cs

/-- The words of a line, split at spaces, the first argument being the word read so far. -/
def splitWords : List Char → List Char → List (List Char)
  | word, [] => if word = [] then [] else [word]
  | word, c :: cs =>
    if c = ' ' then (if word = [] then splitWords [] cs else word :: splitWords [] cs)
    else splitWords (word ++ [c]) cs

/-- A number that fits an unsigned field of `w` bits. -/
def parseField (w : Nat) (cs : List Char) : Option (BitVec w) :=
  match parseNumber cs with
  | some n => if n < 2 ^ w then some (BitVec.ofNat w n) else none
  | none => none

/-- One line of R120: an operation, then possibly `=> <result>` and a comment after `;`, both of which are dropped. -/
def parseHostLine (line : List Char) : Option Instr :=
  match ((splitWords [] (line.takeWhile (· ≠ ';'))).takeWhile (· ≠ ['=', '>'])) with
  | [['o', 'p', 'e', 'n']] => some .openSession
  | [['p', 'o', 'l', 'l']] => some .poll
  | [['e', 'n', 'a', 'b', 'l', 'e'], r, ms] =>
    match parseField 8 r, parseNumber ms with
    | some r, some ms => some (.enableDefault r ms)
    | _, _ => none
  | [['e', 'n', 'a', 'b', 'l', 'e'], r, ms, cfg] =>
    match parseField 8 r, parseNumber ms, parseField 32 cfg with
    | some r, some ms, some cfg => some (.enable r ms cfg)
    | _, _, _ => none
  | _ => none

end Sys2Proof
end

