-- ==== Sys2Proof/Machine/State.lean ====
section
/-! DEFINITION. The state of the machine: the session S of R20, the transport and the event history (R65, R82), what
the host will do next (R39), and the result of the last operation (R10). Plain data. -/

namespace Sys2Proof.Machine

/-! ### The session -/

/-- The session state register `S.fsm` (R21). -/
inductive Fsm where
  | uninitialized
  | resetting
  | awaitingHandshake
  | ready
deriving DecidableEq, Repr

/-- One entry of the active-feature record that is not empty (R25). -/
structure ActiveEntry where
  reportId : Byte
  intervalMillis : Nat
  specificConfig : Word32
deriving DecidableEq, Repr

/-- The record of a triplet slot, the words as received (R28 to R31). -/
structure Triplet where
  status : BitVec 2
  timestamp : Word32
  x : Word16
  y : Word16
  z : Word16
deriving DecidableEq, Repr

/-- The record of the quaternion slot; `real` and `radAcc` hold no value when the packet did not supply them (R32). -/
structure Quaternion where
  status : BitVec 2
  timestamp : Word32
  source : Byte
  i : Word16
  j : Word16
  k : Word16
  real : Option Word16
  radAcc : Option Word16
deriving DecidableEq, Repr

/-- The record of the step-counter slot, the count unsigned (R33). -/
structure StepCount where
  status : BitVec 2
  timestamp : Word32
  count : Word16
deriving DecidableEq, Repr

/-- The record of the stability slot (R34). -/
structure Stability where
  status : BitVec 2
  timestamp : Word32
  classification : Byte
deriving DecidableEq, Repr

/-- The record of the activity slot with its nine confidence entries (R35). -/
structure Activity where
  status : BitVec 2
  timestamp : Word32
  mostLikely : Byte
  confidence : Vector Byte confLen
deriving DecidableEq, Repr

/-- The record of the calibration slot, which has neither status nor timestamp (R36). -/
structure Calibration where
  calibrationStatus : Byte
deriving DecidableEq, Repr

/-- "The whole state of the block is one session S" (R20). -/
structure Session where
  /-- `S.cfg`, read-only (R26). -/
  cfg : Config
  /-- `S.fsm` (R21). -/
  fsm : Fsm
  /-- `S.seq[0..5]`: the number the next outbound packet of each channel will carry (R22). -/
  seq : Vector Byte nchan
  /-- `S.failCount` (R23). -/
  failCount : Nat
  /-- `S.handshakeComplete` (R24). -/
  handshakeComplete : Bool
  /-- `S.active[0..255]`: the entries that are not empty, by strictly ascending report id (R25). -/
  active : List ActiveEntry
  /-- `x[ACCEL]`, none while unwritten (R28). -/
  accel : Option Triplet
  /-- `x[LINACCEL]` (R29). -/
  linAccel : Option Triplet
  /-- `x[GYRO]` (R30). -/
  gyro : Option Triplet
  /-- `x[MAG]` (R31). -/
  mag : Option Triplet
  /-- `x[QUAT]`, shared by rotation vector and game rotation vector (R32). -/
  quat : Option Quaternion
  /-- `x[STEPS]` (R33). -/
  steps : Option StepCount
  /-- `x[STABILITY]` (R34). -/
  stability : Option Stability
  /-- `x[ACTIVITY]` (R35). -/
  activity : Option Activity
  /-- `x[CALIB]` (R36). -/
  calib : Option Calibration
deriving DecidableEq, Repr

/-! ### Conditions, events, results -/

/-- The six conditions that are recorded (R260); the seventh, `Refused`, is `Outcome.refused` (R266). -/
inductive Condition where
  | transportError
  | emptyPacket
  | truncated
  | unrecognizedReport
  | bufferOverflow
  | incomplete
deriving DecidableEq, Repr

/-- One event of the history: a completed bus transaction or a condition (R82, R122, R260). -/
inductive Event where
  /-- `W <bytes> -> ok` or `-> err`. -/
  | write (bytes : Bytes) (ok : Bool)
  /-- `R <n> -> <bytes>`, or `-> err` where there are none. -/
  | read (count : Nat) (bytes : Option Bytes)
  /-- `raise C`. -/
  | raised (c : Condition)
deriving DecidableEq, Repr

/-- A bus transaction that has been issued (R61, R62). -/
inductive Transaction where
  | write (bytes : Bytes)
  | read (count : Nat)
deriving DecidableEq, Repr

/-- What a host operation that has not returned has done so far, and the transaction whose result it awaits
(R70, R299). -/
structure InFlight where
  events : List Event
  awaiting : Transaction
deriving DecidableEq, Repr

/-- The results of `deframe` (R134). -/
inductive DeframeResult where
  | noData
  | packet (channel sequence : Byte) (payload : Bytes) (overflow : Bool)
  | transportError
  | truncated
deriving DecidableEq, Repr

/-- The kinds of `Report(kind)` (R160). -/
inductive Kind where
  | accel
  | gyro
  | mag
  | linAccel
  | rotVec
  | gameRotVec
  | steps
  | stability
  | activity
deriving DecidableEq, Repr

/-- The outcomes of `decode`, a closed list (R160). -/
inductive DecodeOutcome where
  | handshakeAck
  | commandAck (command : Byte)
  | report (kind : Kind)
  | dataPresent
  | unrecognizedReport
  | incomplete
deriving DecidableEq, Repr

/-- The class component of what `poll` returns (R220, R231). -/
inductive PollClass where
  | newData
  | dataPresent
  | noData
  | failed
deriving DecidableEq, Repr

/-- The outcome component of what `poll` returns (R220). -/
inductive PollOutcome where
  | noData
  | transportError
  | truncated
  | decoded (o : DecodeOutcome)
  | resetCompleted
  | resetAborted
deriving DecidableEq, Repr

/-- `ok | failed`, the results of `open` and `enable` (R220). -/
inductive HostResult where
  | ok
  | failed
deriving DecidableEq, Repr

/-- `completed | aborted`, the results of `resetSequence` and `drain` (R223, R224). -/
inductive ResetResult where
  | completed
  | aborted
deriving DecidableEq, Repr

/-- `normal | tripped`, the results of `account` (R229). -/
inductive AccountResult where
  | normal
  | tripped
deriving DecidableEq, Repr

/-- What the client's read port delivers: the stored record, and the binary32 bits of each converted field; a field
with no value has no converted value (R37, R215). -/
inductive View where
  | triplet (record : Triplet) (x y z : Word32)
  | quaternion (record : Quaternion) (i j k : Word32) (real radAcc : Option Word32)
  | steps (record : StepCount)
  | stability (record : Stability)
  | activity (record : Activity)
  | calibration (record : Calibration)
  | physical (bits : Word32)
  | fsm (value : Fsm)
  | failCount (value : Nat)
  | handshakeComplete (value : Bool)
deriving DecidableEq, Repr

/-- What an operation returned (R10). -/
inductive Result where
  /-- Nothing has returned yet. -/
  | none
  /-- `open`, `enable`. -/
  | host (r : HostResult)
  /-- `poll`. -/
  | polled (c : PollClass) (o : PollOutcome)
  /-- `resetSequence`, `drain`. -/
  | reset (r : ResetResult)
  /-- `replay`: whether a write failed. -/
  | replayed (bad : Bool)
  /-- `account`. -/
  | accounted (r : AccountResult)
  /-- `frame`. -/
  | bytes (b : Bytes)
  /-- `send` and the outbound rows: whether the write was ok. -/
  | sent (ok : Bool)
  /-- `deframe` and `HEADER`. -/
  | deframed (r : DeframeResult)
  /-- `nextSequence`. -/
  | sequence (v : Byte)
  /-- `decode` and the inbound rows. -/
  | decoded (o : DecodeOutcome)
  /-- The three builders: channel and payload. -/
  | built (channel : Byte) (payload : Bytes)
  /-- `dequantize`: the bits of the binary32 number. -/
  | converted (bits : Word32)
  /-- A client read. -/
  | viewed (v : View)
deriving DecidableEq, Repr

/-! ### The transport and the host -/

/-- The transport as the block meets it, and the record of everything that passed (R65, R82). -/
structure Bus where
  /-- The oracle's answers to the transactions to come, the next one first (R65, log 2). -/
  answers : List Answer
  /-- The index of the next free answer, the model's own counter (log 2). -/
  nextFree : Nat
  /-- Whether the transaction after the last listed answer never completes: its result never arrives, and the operation
  that awaits it never returns (R299, log 2, 19). -/
  silent : Bool
  /-- The event history, oldest first (R82). -/
  history : List Event
deriving DecidableEq, Repr

/-- What the client can read between host operations (R37, R220). -/
inductive Port where
  | accel
  | linAccel
  | gyro
  | mag
  | quat
  | quatReal
  | quatRadAcc
  | steps
  | stability
  | activity
  | calib
  | fsm
  | failCount
  | handshakeComplete
deriving DecidableEq, Repr

/-- What the host does next. -/
inductive Action where
  /-- An operation of R112, issued by name (log 8, 10). -/
  | call (i : Instr)
  /-- The bytes of a packet or header, put at the unit that reads them (log 8). -/
  | wire (f : Form) (bytes : Bytes)
  /-- A read through the read port (R37, R233). -/
  | read (p : Port)
deriving DecidableEq, Repr

/-- The machine: the session, the transport, what the host has in hand, and the last result. -/
structure State where
  session : Session
  bus : Bus
  /-- The host's actions to come, the next one first: "the order of its actions is given by the host" (R39, R75). -/
  pending : List Action
  /-- Some, while the operation at the head of `pending` awaits an answer of the transport (log 2, 19). -/
  inProgress : Option InFlight
  /-- The result of the last operation that returned, the model's own record (log 7). -/
  returned : Result
deriving DecidableEq, Repr

/-! ### Stops -/

/-- The block has no fault: "the source defines no fault for any of these" (93_implementation_defined.md). Empty: log 16. -/
inductive Fault : Type
deriving DecidableEq, Repr

/-- The refusals of R266 and R27: "the spec gives the operation no meaning in this situation". All safe (log 11). -/
inductive Refusal where
  /-- Raised by `exec` for an instruction without a meaning; none is left. Safe. -/
  | notModelled (mnemonic : String)
  /-- Raised by every operation when the configuration breaks R7. Safe. -/
  | illFormedConfig
  /-- Raised by `open`, `enable`, `poll` in a state where R221 does not admit them. Safe. -/
  | notAdmitted
  /-- Raised by `enable` and `buildSetFeature` when the interval is over 4294967 (R201). Safe. -/
  | intervalTooLong
  /-- Raised by `nextSequence` and `send` when the channel is over 5 (R150). Safe. -/
  | noSuchChannel
  /-- Raised by `frame` and `send` when the payload is over 32763 bytes (R131). Safe. -/
  | payloadTooLong
  /-- Raised by `send` when the frame is over CEILING bytes: outbound chunking is not specified (R133). Safe. -/
  | frameOverCeiling
  /-- Raised by `dequantize` when q is outside -112..127 (R213). Safe. -/
  | exponentOutOfRange
  /-- Raised by `decode` when the payload is empty or over CAPACITY bytes, outside its stated operands (R160). Safe. -/
  | payloadOutOfDomain
  /-- Raised by the step for a called row whose operands the row does not admit (R112). Safe. -/
  | operandsNotOfRow
  /-- Raised by the step for bytes that are no packet or header of R112. Safe. -/
  | undecodable (e : DecodeError)
  /-- Raised by a client read of an unwritten slot or of a field with no value (R27, decision D21, U5). Safe. -/
  | noValue
deriving DecidableEq, Repr

/-! ### Power-on -/

/-- The session at power-on (R290), constructed with the default configuration (log 5). -/
def Session.reset : Session where
  cfg := Config.default
  fsm := .uninitialized
  seq := #v[0, 0, 0, 0, 0, 0]
  failCount := 0
  handshakeComplete := false
  active := []
  accel := none
  linAccel := none
  gyro := none
  mag := none
  quat := none
  steps := none
  stability := none
  activity := none
  calib := none

/-- The machine at power-on: R290, no transaction has been issued, and the host has nothing in hand (log 7). -/
def State.reset : State where
  session := Session.reset
  bus := { answers := [], nextFree := 0, silent := false, history := [] }
  pending := []
  inProgress := none
  returned := .none

end Sys2Proof.Machine
end

