-- ==== Sys2Proof/Machine/Flags.lean ====
section
/-! DEFINITION. Every flag-like value of the block (R40): the status of a report, the two named presence conditions,
the overflow flag, the class of an outcome, the codes of the conditions. -/

namespace Sys2Proof.Machine

/-- `status = payload[7] & 0x03`; bits 7..2 are ignored (R110 (c), R171). -/
def statusOf (statusByte : Byte) : BitVec 2 := statusByte.extractLsb' 0 2

/-- `remaining = len(payload) - 5`, in the integers (R106, R173). -/
def remainingLength (payload : Bytes) : Int := (payload.length : Int) - 5

/-- The named condition `hasQuaternionReal` with the source's exact threshold (R106, R173). -/
def hasQuaternionReal (payload : Bytes) : Bool := decide (remainingLength payload > 9)

/-- The named condition `hasRadianAccuracy` with the source's exact threshold (R106, R173). -/
def hasRadianAccuracy (payload : Bytes) : Bool := decide (remainingLength payload > 11)

/-- `overflow` is true exactly when the declared length exceeds CAPACITY (R139). -/
def overflows (cfg : Config) (length : Nat) : Bool := decide (cfg.capacity < length)

/-- The class of a decode outcome (R187). -/
def classOf : DecodeOutcome → PollClass
  | .handshakeAck => .newData
  | .commandAck _ => .newData
  | .report _ => .newData
  | .dataPresent => .dataPresent
  | .unrecognizedReport => .noData
  | .incomplete => .noData

/-- The condition an outcome raises: two outcomes raise the condition of the same name, the others none (R260). -/
def conditionOf : DecodeOutcome → Option Condition
  | .unrecognizedReport => some .unrecognizedReport
  | .incomplete => some .incomplete
  | .handshakeAck => none
  | .commandAck _ => none
  | .report _ => none
  | .dataPresent => none

/-- The ordinal codes of the conditions (R260). -/
def conditionCode : Condition → Nat
  | .transportError => 1
  | .emptyPacket => 2
  | .truncated => 3
  | .unrecognizedReport => 4
  | .bufferOverflow => 5
  | .incomplete => 6

/-- Whether the session counts the condition toward the reset (R260). -/
def countedTowardReset : Condition → Bool
  | .transportError => true
  | .truncated => true
  | .emptyPacket => false
  | .unrecognizedReport => false
  | .bufferOverflow => false
  | .incomplete => false

end Sys2Proof.Machine
end

