-- ==== Sys2Proof/Machine/Operands.lean ====
section
/-! DEFINITION. The fields of the payload space that the decode actions read (R104 to R109, R171 to R173). A field
with a byte outside the payload has no value (R74). -/

namespace Sys2Proof.Machine

/-- `timestamp = le32(payload, 1)`, as received (R171). -/
def reportTimestamp (payload : Bytes) : Option Word32 := le32 payload 1

/-- `status = payload[7] & 0x03` (R171). -/
def reportStatus (payload : Bytes) : Option (BitVec 2) := payload[7]?.map statusOf

/-- The triplet words at 9, 11, 13 with the common fields (R171, R172). -/
def tripletRecord (payload : Bytes) : Option Triplet :=
  match reportStatus payload, reportTimestamp payload, le16 payload 9, le16 payload 11, le16 payload 13 with
  | some status, some timestamp, some x, some y, some z => some ⟨status, timestamp, x, y, z⟩
  | _, _, _, _, _ => none

/-- The fourth word: flagged present, and a value only when both its bytes are inside the payload (R173). -/
def quaternionReal (payload : Bytes) : Option Word16 :=
  if hasQuaternionReal payload && decide (17 ≤ payload.length) then le16 payload 15 else none

/-- The fifth word: flagged present, and a value only when both its bytes are inside the payload (R173). -/
def radianAccuracy (payload : Bytes) : Option Word16 :=
  if hasRadianAccuracy payload && decide (19 ≤ payload.length) then le16 payload 17 else none

/-- The record of a rotation vector, `source` the sub-report id that wrote it (R178, R179). -/
def quaternionRecord (source : Byte) (payload : Bytes) : Option Quaternion :=
  match reportStatus payload, reportTimestamp payload, le16 payload 9, le16 payload 11, le16 payload 13 with
  | some status, some timestamp, some i, some j, some k =>
    some ⟨status, timestamp, source, i, j, k, quaternionReal payload, radianAccuracy payload⟩
  | _, _, _, _, _ => none

/-- The step counter's record: the third triplet word, unsigned (R109, R180). -/
def stepRecord (payload : Bytes) : Option StepCount :=
  match reportStatus payload, reportTimestamp payload, le16 payload 13 with
  | some status, some timestamp, some count => some ⟨status, timestamp, count⟩
  | _, _, _ => none

/-- The stability classifier's record: `payload[9]` (R107, R181). -/
def stabilityRecord (payload : Bytes) : Option Stability :=
  match reportStatus payload, reportTimestamp payload, payload[9]? with
  | some status, some timestamp, some classification => some ⟨status, timestamp, classification⟩
  | _, _, _ => none

/-- The nine confidence entries, `confidence[n] = payload[11 + n]` (R108, R182). -/
def confidenceEntries (payload : Bytes) : Option (Vector Byte confLen) :=
  match memRead payload 11 9 with
  | some [c0, c1, c2, c3, c4, c5, c6, c7, c8] => some #v[c0, c1, c2, c3, c4, c5, c6, c7, c8]
  | _ => none

/-- The activity classifier's record: `payload[10]` and the nine entries; `payload[9]` is ignored (R108, R182). -/
def activityRecord (payload : Bytes) : Option Activity :=
  match reportStatus payload, reportTimestamp payload, payload[10]?, confidenceEntries payload with
  | some status, some timestamp, some mostLikely, some confidence =>
    some ⟨status, timestamp, mostLikely, confidence⟩
  | _, _, _, _ => none

end Sys2Proof.Machine
end

