-- ==== Sys2Proof/Machine/Ops.lean ====
section
/-! DEFINITION. The operations that the instructions share: runs over the transport's answers, the two transport
primitives (R61, R62), the sequencer (R150), the framer and deframer (R130, R132, R134), the encoder's payloads
(R200 to R203), the active-feature record (R25), and the reset sequence, the block's exception entry (R223, R271),
with the accounting that takes it (R229, R230) and the return from it (R227, R228, R272). -/

namespace Sys2Proof.Machine

/-! ### Configurations -/

/-- The configuration is well formed (R7); an exponent `qRotAcc` that has not been given breaks nothing (log 4). -/
def configWf (c : Config) : Bool :=
  decide (21 ≤ c.ceiling) && decide (c.ceiling ≤ 32767) && decide (1 ≤ c.capacity) && decide (1 ≤ c.failThreshold) &&
  decide (c.qAccel ≤ 15) && decide (c.qLinAccel ≤ 15) && decide (c.qGyro ≤ 15) && decide (c.qMag ≤ 15) &&
  decide (c.qRot ≤ 15) && c.qRotAcc.all (fun q => decide (q ≤ 15))

/-! ### Runs over the transport's answers -/

/-- How far an operation comes with the answers that are listed: it is done, it awaits the answer to a transaction it
has issued (R299), or the spec gives it no meaning (R10). -/
inductive Run (α : Type) where
  | done (a : α)
  | waits (f : InFlight)
  | refused (r : Refusal)
deriving DecidableEq, Repr

/-- One run after another. -/
def Run.bind {α β : Type} (x : Run α) (f : α → Run β) : Run β :=
  match x with
  | .done a => f a
  | .waits f => .waits f
  | .refused r => .refused r

/-- What an operation works on: the session and the transport. -/
structure Work where
  session : Session
  bus : Bus
deriving DecidableEq, Repr

/-! ### Conditions and the two transport primitives -/

/-- `raise C`: the event is appended to the history and nothing else happens (R260). -/
def raise (c : Condition) (b : Bus) : Bus := { b with history := b.history ++ [.raised c] }

/-- The result of a write: no partial success (R61). -/
def writeResult : Answer → Bool
  | .ok _ => true
  | .error => false

/-- The result of a read of `n` bytes: any other number of bytes is an error (R62, R63). -/
def readResult (n : Nat) : Answer → Option Bytes
  | .ok bytes => if bytes.length = n then some bytes else none
  | .error => none

/-- `BusWrite(bytes)` (R61): one transaction, recorded with its result (R82). -/
def busWrite (bytes : Bytes) (b : Bus) : Run (Bool × Bus) :=
  match b.answers with
  | [] => .waits { events := b.history, awaiting := .write bytes }
  | a :: rest =>
    .done (writeResult a, { b with answers := rest, history := b.history ++ [.write bytes (writeResult a)] })

/-- `BusRead(n)` (R62): one transaction, recorded with its result (R82). -/
def busRead (n : Nat) (b : Bus) : Run (Option Bytes × Bus) :=
  match b.answers with
  | [] => .waits { events := b.history, awaiting := .read n }
  | a :: rest =>
    .done (readResult n a, { b with answers := rest, history := b.history ++ [.read n (readResult n a)] })

/-! ### The sequencer -/

/-- `nextSequence(channel)`: the current counter, then one more modulo 256; refused over 5 (R150). -/
def nextSequenceOp (channel : Byte) (s : Session) : Run (Byte × Session) :=
  if h : channel.toNat < nchan then
    .done (s.seq[channel.toNat], { s with seq := s.seq.set channel.toNat (s.seq[channel.toNat] + 1) })
  else .refused .noSuchChannel

/-- All six entries zero (R154). -/
def clearSequence (s : Session) : Session := { s with seq := #v[0, 0, 0, 0, 0, 0] }

/-! ### The framer -/

/-- `frame(channel, sequence, payload)`: header and payload; refused over 32763 payload bytes (R130, R131). -/
def frameOp (channel sequence : Byte) (payload : Bytes) : Run Bytes :=
  if 32763 < payload.length then .refused .payloadTooLong
  else
    .done ([BitVec.ofNat 8 (payload.length + 4), BitVec.ofNat 8 ((payload.length + 4) >>> 8), channel, sequence]
      ++ payload)

/-- `send(channel, payload)`: stamp, frame, one write; a failed write raises TransportError (R132, R133). -/
def sendOp (channel : Byte) (payload : Bytes) (w : Work) : Run (Bool × Work) :=
  (nextSequenceOp channel w.session).bind fun stamped =>
  (frameOp channel stamped.1 payload).bind fun bytes =>
  if w.session.cfg.ceiling < bytes.length then .refused .frameOverCeiling
  else
    (busWrite bytes w.bus).bind fun written =>
    .done (written.1,
      { session := stamped.2, bus := if written.1 then written.2 else raise .transportError written.2 })

/-! ### The deframer -/

/-- `MemWrite` for a chunk: its bytes are appended while fewer than CAPACITY are held, the rest dropped (R73, R139). -/
def storePayload (capacity : Nat) (payload chunk : Bytes) : Bytes :=
  payload ++ chunk.take (capacity - payload.length)

/-- Step 4 of R134: chunk reads of `min(remaining, CEILING - 4) + 4` bytes until nothing remains; the first 4 bytes of
each are discarded unread (R138). None when a chunk read fails. The first argument bounds the number of chunks. -/
def readChunks (cfg : Config) : Nat → Nat → Bytes → Bus → Run (Option Bytes × Bus)
  | 0, _, payload, b => .done (some payload, b)
  | fuel + 1, remaining, payload, b =>
    if remaining = 0 then .done (some payload, b)
    else
      (busRead (min remaining (cfg.ceiling - 4) + 4) b).bind fun c =>
      match c.1 with
      | none => .done (none, c.2)
      | some bytes =>
        readChunks cfg fuel (remaining - min remaining (cfg.ceiling - 4))
          (storePayload cfg.capacity payload (bytes.drop 4)) c.2

/-- The deframe after its probe has returned this header: steps 1 to 5 of R134. -/
def afterProbe (cfg : Config) (h : Header) (b : Bus) : Run (DeframeResult × Bus) :=
  if h.raw = 0 then .done (.noData, raise .emptyPacket b)
  else if (h.length.toNat : Int) - 4 ≤ 0 then .done (.noData, raise .emptyPacket b)
  else
    (readChunks cfg (h.length.toNat - 4) (h.length.toNat - 4) [] b).bind fun p =>
    match p.1 with
    | none => .done (.truncated, raise .truncated p.2)
    | some payload =>
      .done (.packet h.channel h.sequence payload (overflows cfg (h.length.toNat - 4)),
        if overflows cfg (h.length.toNat - 4) then raise .bufferOverflow p.2 else p.2)

/-- `deframe()` (R134). -/
def deframeOp (cfg : Config) (b : Bus) : Run (DeframeResult × Bus) :=
  (busRead 4 b).bind fun p =>
  match p.1.bind Header.read with
  | none => .done (.transportError, raise .transportError p.2)
  | some h => afterProbe cfg h p.2

/-! ### The encoder's payloads -/

/-- `buildSetFeature`: channel CONTROL and 17 bytes; refused over 4294967 ms (R200, R201). -/
def setFeatureOp (reportId : Byte) (intervalMillis : Nat) (specificConfig : Word32) : Run (Byte × Bytes) :=
  if 4294967 < intervalMillis then .refused .intervalTooLong
  else .done (Channel.control.code, setFeaturePayload reportId (BitVec.ofNat 32 (intervalMillis * 1000)) specificConfig)

/-- `buildSoftReset` (R202). -/
def softResetPacket : Byte × Bytes := (Channel.executable.code, [softResetByte])

/-- `buildProductIdRequest` (R203). -/
def productIdPacket : Byte × Bytes := (Channel.control.code, [idProductIdRequest, 0x00])

/-! ### The active-feature record -/

/-- `S.active[r]`, none when it is empty (R25). -/
def activeLookup (r : Byte) : List ActiveEntry → Option ActiveEntry
  | [] => none
  | e :: rest => if e.reportId = r then some e else activeLookup r rest

/-- `S.active[r] <- (ms, cfg)`: the entry of its id is overwritten or put in its place (R25). -/
def activeWrite (e : ActiveEntry) : List ActiveEntry → List ActiveEntry
  | [] => [e]
  | f :: rest =>
    if e.reportId.toNat < f.reportId.toNat then e :: f :: rest
    else if e.reportId = f.reportId then e :: rest
    else f :: activeWrite e rest

/-- The one canonical form of the record: strictly ascending report ids. -/
def activeCanonical : List ActiveEntry → Bool
  | [] => true
  | [_] => true
  | e :: f :: rest => decide (e.reportId.toNat < f.reportId.toNat) && activeCanonical (f :: rest)

/-- `REPLAY_ORDER(ids)`: the order listed for this very set of ids, else ascending (R6, R228, log 6). -/
def replayOrder (cfg : Config) (ids : List Byte) : List Byte :=
  (cfg.replayOrders.find? (fun order => order.isPerm ids)).getD ids

/-- The recorded requests in the order in which they are re-sent (R228). -/
def replayEntries (s : Session) : List ActiveEntry :=
  (replayOrder s.cfg (s.active.map (·.reportId))).filterMap (fun r => activeLookup r s.active)

/-! ### Exception entry: the reset sequence -/

/-- The drain (R224): deframes and discards until two consecutive "no data". The first argument bounds the number of
deframes; each takes at least one answer, so with as many as there are answers the bound is met only when none is
left, and then the next probe is awaited. -/
def drainLoop (cfg : Config) : Nat → Nat → Bus → Run (ResetResult × Bus)
  | 0, empties, b =>
    if empties < 2 then .waits { events := b.history, awaiting := .read 4 } else .done (.completed, b)
  | fuel + 1, empties, b =>
    if empties < 2 then
      (deframeOp cfg b).bind fun d =>
      match d.1 with
      | .noData => drainLoop cfg fuel (empties + 1) d.2
      | .packet _ _ _ _ => drainLoop cfg fuel 0 d.2
      | .transportError => .done (.aborted, d.2)
      | .truncated => .done (.aborted, d.2)
    else .done (.completed, b)

/-- `drain()` (R224). -/
def drainOp (cfg : Config) (b : Bus) : Run (ResetResult × Bus) := drainLoop cfg b.answers.length 0 b

/-- What the reset sequence writes at its start (R223). -/
def enterResetting (s : Session) : Session :=
  { s with fsm := .resetting, handshakeComplete := false, failCount := 0 }

/-- `resetSequence()`, the one exception entry of the block (R223, R271). The slots, `S.active` and `S.cfg` are
deliberately not written (R293). -/
def resetOp (w : Work) : Run (ResetResult × Work) :=
  (sendOp softResetPacket.1 softResetPacket.2 { w with session := enterResetting w.session }).bind fun r =>
  if r.1 then
    let cleared : Session :=
      if r.2.session.cfg.seqClearOnSoftReset then clearSequence r.2.session else r.2.session
    (drainOp cleared.cfg r.2.bus).bind fun d =>
    match d.1 with
    | .aborted => .done (.aborted, { session := cleared, bus := d.2 })
    | .completed =>
      (sendOp productIdPacket.1 productIdPacket.2 { session := cleared, bus := d.2 }).bind fun q =>
      if q.1 then
        .done (.completed, { q.2 with session := { q.2.session with fsm := .awaitingHandshake } })
      else .done (.aborted, q.2)
  else .done (.aborted, r.2)

/-- `account(failedNow)`: counts, and at the threshold takes the automatic reset at once, ignoring whether that
completed (R229, R230). -/
def accountOp (failedNow : Bool) (w : Work) : Run (AccountResult × Work) :=
  if failedNow then
    if w.session.cfg.failThreshold ≤ w.session.failCount + 1 then
      (resetOp { w with session := { w.session with failCount := w.session.failCount + 1 } }).bind fun r =>
      .done (.tripped, r.2)
    else .done (.normal, { w with session := { w.session with failCount := w.session.failCount + 1 } })
  else .done (.normal, { w with session := { w.session with failCount := 0 } })

/-! ### Exception return: the handshake and the replay -/

/-- The loop of `replay()`: every entry is sent, whether or not an earlier write failed (R228). -/
def replayLoop : List ActiveEntry → Bool → Work → Run (Bool × Work)
  | [], bad, w => .done (bad, w)
  | e :: rest, bad, w =>
    (setFeatureOp e.reportId e.intervalMillis e.specificConfig).bind fun p =>
    (sendOp p.1 p.2 w).bind fun r =>
    replayLoop rest (bad || !r.1) r.2

/-- `replay()` (R228). -/
def replayOp (w : Work) : Run (Bool × Work) := replayLoop (replayEntries w.session) false w

/-- The return to `Ready` and the re-issue that follows at once in the same operation (R227, R272). -/
def handshakeOp (w : Work) : Run (Bool × Work) :=
  replayOp { w with session := { w.session with fsm := .ready } }

/-! ### From a run to an outcome -/

/-- What arrives next at the transport: a free answer (R65, log 2), or nothing any more (R299). -/
def arrival (b : Bus) : Option Answer := if b.silent then none else Config.freeAnswer b.nextFree

/-- The transport after that: one more answer is listed, or its result never arrives and nothing changes ever again:
"the block has no watchdog" (R299). -/
def receiveAnswer (b : Bus) : Bus :=
  { b with answers := b.answers ++ (arrival b).toList,
           nextFree := b.nextFree + (arrival b).toList.length,
           silent := (arrival b).isNone }

/-- An operation performed on a state: its result is recorded; while it awaits an answer the session is as before it
(R233) and the transport gives one more answer or none ever again (R299); every operation is refused under an ill-formed configuration (R7). -/
def perform (s : State) (operation : Work → Run (Result × Work)) : Host.Outcome State Fault Refusal :=
  if configWf s.session.cfg then
    match operation { session := s.session, bus := s.bus } with
    | .done r =>
      .next { s with session := r.2.session, bus := r.2.bus, inProgress := none, returned := r.1 }
    | .waits f =>
      .next { s with bus := receiveAnswer s.bus,
                     inProgress := some { f with events := f.events.drop s.bus.history.length } }
    | .refused r => .refused r
  else .refused .illFormedConfig

end Sys2Proof.Machine
end

