-- ==== Sys2Proof/Machine/Converter.lean ====
section
/-! DEFINITION. The Fixed-Point Converter: `dequantize` (44_converter.md), in the bits of IEEE 754 binary32, whose
parameters the spec takes from general knowledge (GK1 of 93_implementation_defined.md, log 17). -/

namespace Sys2Proof.Machine

/-- The magnitude of an i16, at most 32768. -/
def magnitude (raw : Word16) : Nat := (sext16 raw).natAbs

/-- Sign bit, biased exponent and fraction put together. -/
def packFloat (negative : Bool) (exponent fraction : Nat) : Word32 :=
  BitVec.ofNat 32 ((if negative then 2 ^ 31 else 0) + exponent * 2 ^ 23 + fraction)

/-- The binary32 number equal to `raw * 2^(-q)` (R210): +0.0 for 0 (R212); a normal number when its leading bit has an
exponent of at least -126; else a subnormal, a multiple of 2^-149 (R211). Meant for -112 <= q <= 127 (R213). -/
def dequantizeBits (raw : Word16) (q : Int) : Word32 :=
  let m := magnitude raw
  let top := Nat.log2 m
  if m = 0 then 0
  else if -126 ≤ (top : Int) - q then
    packFloat (decide (sext16 raw < 0)) ((top : Int) - q + 127).toNat (m * 2 ^ (23 - top) - 2 ^ 23)
  else packFloat (decide (sext16 raw < 0)) 0 (m * 2 ^ (149 - q).toNat)

/-- The domain of `dequantize` (R213). -/
def exponentInDomain (q : Int) : Bool := decide (-112 ≤ q) && decide (q ≤ 127)

/-- `dequantize(raw, q)` (R210, R213). -/
def dequantizeOp (raw : Word16) (q : Int) : Run Word32 :=
  if exponentInDomain q then .done (dequantizeBits raw q) else .refused .exponentOutOfRange

/-- `dequantize` (R210). -/
def execDequantize (raw : Word16) (q : Int) (s : State) : Host.Outcome State Fault Refusal :=
  perform s fun w => (dequantizeOp raw q).bind fun bits => .done (.converted bits, w)

/-- The number that the bits of a finite binary32 stand for (GK1). -/
def floatValue (bits : Word32) : Rat :=
  let sign : Rat := if bits.getLsbD 31 then -1 else 1
  let exponent : Nat := (bits.extractLsb' 23 8).toNat
  let fraction : Nat := (bits.extractLsb' 0 23).toNat
  if exponent = 0 then sign * fraction * (2 : Rat) ^ (-149 : Int)
  else sign * (2 ^ 23 + fraction) * (2 : Rat) ^ ((exponent : Int) - 150)

/-- The bits are those of a finite number: neither infinity nor NaN (GK1). -/
def floatFinite (bits : Word32) : Bool := decide ((bits.extractLsb' 23 8).toNat ≠ 255)

end Sys2Proof.Machine
end

