-- ==== Sys2Proof/Machine/Encoder.lean ====
section
/-! DEFINITION. The Command Encoder: the three builders, and the three outbound rows, which are the built payloads sent
(43_encoder.md, R112 part B). -/

namespace Sys2Proof.Machine

/-- `buildSetFeature` (R200, R201). -/
def execBuildSetFeature (reportId : Byte) (intervalMillis : Nat) (specificConfig : Word32) (s : State) :
    Host.Outcome State Fault Refusal :=
  perform s fun w =>
    (setFeatureOp reportId intervalMillis specificConfig).bind fun p => .done (.built p.1 p.2, w)

/-- `buildSoftReset` (R202). -/
def execBuildSoftReset (s : State) : Host.Outcome State Fault Refusal :=
  perform s fun w => .done (.built softResetPacket.1 softResetPacket.2, w)

/-- `buildProductIdRequest` (R203). -/
def execBuildProductIdRequest (s : State) : Host.Outcome State Fault Refusal :=
  perform s fun w => .done (.built productIdPacket.1 productIdPacket.2, w)

/-- `OUT.SETF` (R99): the packet is stamped and written (R132, log 13). -/
def execOutSetf (reportId : Byte) (intervalMicros specificConfig : Word32) (s : State) :
    Host.Outcome State Fault Refusal :=
  perform s fun w =>
    (sendOp Channel.control.code (setFeaturePayload reportId intervalMicros specificConfig) w).bind fun r =>
    .done (.sent r.1, r.2)

/-- `OUT.SRST` (R100): the packet is stamped and written (R132, log 13). -/
def execOutSrst (s : State) : Host.Outcome State Fault Refusal :=
  perform s fun w =>
    (sendOp Channel.executable.code [softResetByte] w).bind fun r => .done (.sent r.1, r.2)

/-- `OUT.PIDQ` (R101): the packet is stamped and written (R132, log 13). -/
def execOutPidq (s : State) : Host.Outcome State Fault Refusal :=
  perform s fun w =>
    (sendOp Channel.control.code [idProductIdRequest, 0x00] w).bind fun r => .done (.sent r.1, r.2)

end Sys2Proof.Machine
end

