-- ==== Sys2Proof/Machine/Framer.lean ====
section
/-! DEFINITION. The Packet Framer/Deframer: `HEADER`, `frame`, `send`, `deframe` (40_framer.md). -/

namespace Sys2Proof.Machine

/-- `HEADER` (R90): the deframer takes this header as what its probe returned and goes on from there (R134, log 14). -/
def execHeader (h : Header) (s : State) : Host.Outcome State Fault Refusal :=
  perform s fun w =>
    (afterProbe w.session.cfg h w.bus).bind fun d => .done (.deframed d.1, { w with bus := d.2 })

/-- `frame` (R130, R131). -/
def execFrame (channel sequence : Byte) (payload : Bytes) (s : State) : Host.Outcome State Fault Refusal :=
  perform s fun w => (frameOp channel sequence payload).bind fun bytes => .done (.bytes bytes, w)

/-- `send` (R132, R133). -/
def execSend (channel : Byte) (payload : Bytes) (s : State) : Host.Outcome State Fault Refusal :=
  perform s fun w => (sendOp channel payload w).bind fun r => .done (.sent r.1, r.2)

/-- `deframe` (R134). -/
def execDeframe (s : State) : Host.Outcome State Fault Refusal :=
  perform s fun w => (deframeOp w.session.cfg w.bus).bind fun d => .done (.deframed d.1, { w with bus := d.2 })

end Sys2Proof.Machine
end

