-- ==== Sys2Proof/Machine/Sequencer.lean ====
section
/-! DEFINITION. The Channel Sequencer: `nextSequence` (41_sequencer.md). -/

namespace Sys2Proof.Machine

/-- `nextSequence` (R150). -/
def execNextSequence (channel : Byte) (s : State) : Host.Outcome State Fault Refusal :=
  perform s fun w =>
    (nextSequenceOp channel w.session).bind fun r => .done (.sequence r.1, { w with session := r.2 })

end Sys2Proof.Machine
end

