-- ==== Sys2Proof/Machine/Decoder.lean ====
section
/-! DEFINITION. The Report Decoder: the sixteen inbound rows and `decode` (42_decoder.md). An action either writes
exactly the state it names or writes nothing (R186). -/

namespace Sys2Proof.Machine

/-! ### Decode actions: the outcome and the session after it -/

/-- A decode action with its minimum length (R184): a shorter payload, or a mandatory field without a value (R74), is
`Incomplete` and writes nothing. -/
def writeSlot {α : Type} (kind : Kind) (minimum : Nat) (payload : Bytes) (record : Option α) (put : α → Session)
    (s : Session) : DecodeOutcome × Session :=
  if payload.length < minimum then (.incomplete, s)
  else
    match record with
    | some r => (.report kind, put r)
    | none => (.incomplete, s)

/-- R162: mark the handshake complete. -/
def actPidr (_payload : Bytes) (s : Session) : DecodeOutcome × Session :=
  (.handshakeAck, { s with handshakeComplete := true })

/-- R163, R164: acknowledge the command; ME_CALIBRATE also writes the calibration slot. -/
def actCmdr (payload : Bytes) (s : Session) : DecodeOutcome × Session :=
  match payload[2]? with
  | none => (.incomplete, s)
  | some command =>
    if command = meCalibrate then
      match payload[5]? with
      | none => (.incomplete, s)
      | some r0 => (.commandAck command, { s with calib := some { calibrationStatus := r0 } })
    else (.commandAck command, s)

/-- R165. -/
def actCtrlOther (_payload : Bytes) (s : Session) : DecodeOutcome × Session := (.unrecognizedReport, s)

/-- R174. -/
def actAccel (payload : Bytes) (s : Session) : DecodeOutcome × Session :=
  writeSlot .accel 15 payload (tripletRecord payload) (fun r => { s with accel := some r }) s

/-- R175. -/
def actGyro (payload : Bytes) (s : Session) : DecodeOutcome × Session :=
  writeSlot .gyro 15 payload (tripletRecord payload) (fun r => { s with gyro := some r }) s

/-- R176. -/
def actMag (payload : Bytes) (s : Session) : DecodeOutcome × Session :=
  writeSlot .mag 15 payload (tripletRecord payload) (fun r => { s with mag := some r }) s

/-- R177. -/
def actLinAccel (payload : Bytes) (s : Session) : DecodeOutcome × Session :=
  writeSlot .linAccel 15 payload (tripletRecord payload) (fun r => { s with linAccel := some r }) s

/-- R178. -/
def actRotVec (payload : Bytes) (s : Session) : DecodeOutcome × Session :=
  writeSlot .rotVec 15 payload (quaternionRecord 0x05 payload) (fun r => { s with quat := some r }) s

/-- R179. -/
def actGameRotVec (payload : Bytes) (s : Session) : DecodeOutcome × Session :=
  writeSlot .gameRotVec 15 payload (quaternionRecord 0x08 payload) (fun r => { s with quat := some r }) s

/-- R180. -/
def actSteps (payload : Bytes) (s : Session) : DecodeOutcome × Session :=
  writeSlot .steps 15 payload (stepRecord payload) (fun r => { s with steps := some r }) s

/-- R181. -/
def actStability (payload : Bytes) (s : Session) : DecodeOutcome × Session :=
  writeSlot .stability 10 payload (stabilityRecord payload) (fun r => { s with stability := some r }) s

/-- R182. -/
def actActivity (payload : Bytes) (s : Session) : DecodeOutcome × Session :=
  writeSlot .activity 20 payload (activityRecord payload) (fun r => { s with activity := some r }) s

/-- R183, and R166 where `payload[5]` is absent. -/
def actSubOther (payload : Bytes) (s : Session) : DecodeOutcome × Session :=
  if payload.length < 6 then (.incomplete, s) else (.unrecognizedReport, s)

/-- R167. -/
def actReportsOther (_payload : Bytes) (s : Session) : DecodeOutcome × Session := (.unrecognizedReport, s)

/-- R168. -/
def actCh0 (_payload : Bytes) (s : Session) : DecodeOutcome × Session := (.unrecognizedReport, s)

/-- R169. -/
def actChOther (_channel : Byte) (_payload : Bytes) (s : Session) : DecodeOutcome × Session := (.dataPresent, s)

/-- The action of a row (R112 part A). -/
def rowAction (r : InRow) (channel : Byte) (payload : Bytes) (s : Session) : DecodeOutcome × Session :=
  match r with
  | .pidr => actPidr payload s
  | .cmdr => actCmdr payload s
  | .ctrlOther => actCtrlOther payload s
  | .accel => actAccel payload s
  | .gyro => actGyro payload s
  | .mag => actMag payload s
  | .linAccel => actLinAccel payload s
  | .rotVec => actRotVec payload s
  | .gameRotVec => actGameRotVec payload s
  | .steps => actSteps payload s
  | .stability => actStability payload s
  | .activity => actActivity payload s
  | .subOther => actSubOther payload s
  | .reportsOther => actReportsOther payload s
  | .ch0 => actCh0 payload s
  | .chOther => actChOther channel payload s

/-- The condition an outcome raises, recorded (R260). -/
def recordOutcome (o : DecodeOutcome) (b : Bus) : Bus :=
  match conditionOf o with
  | some c => raise c b
  | none => b

/-- A decode action on what an operation works on. -/
def decodeAction (action : Session → DecodeOutcome × Session) (w : Work) : DecodeOutcome × Work :=
  ((action w.session).1,
    { session := (action w.session).2, bus := recordOutcome (action w.session).1 w.bus })

/-- `decode(channel, payload)` (R160, R161): no bus transaction; its operand has 1..CAPACITY bytes. -/
def decodeOp (channel : Byte) (payload : Bytes) (w : Work) : Run (DecodeOutcome × Work) :=
  if w.session.cfg.capacity < payload.length then .refused .payloadOutOfDomain
  else
    match classify channel payload with
    | none => .refused .payloadOutOfDomain
    | some r => .done (decodeAction (rowAction r channel payload) w)

/-! ### The rows and `decode` as instructions -/

/-- An inbound row: its action on the session, "on its retained prefix of `CAPACITY` bytes" (R73, R185, log 15). -/
def performAction (action : Bytes → Session → DecodeOutcome × Session) (payload : Bytes) (s : State) :
    Host.Outcome State Fault Refusal :=
  perform s fun w =>
    let d := decodeAction (action (storePayload w.session.cfg.capacity [] payload)) w
    .done (.decoded d.1, d.2)

/-- `IN.PIDR` (R162). -/
def execInPidr (payload : Bytes) (s : State) : Host.Outcome State Fault Refusal := performAction actPidr payload s

/-- `IN.CMDR` (R163, R164). -/
def execInCmdr (payload : Bytes) (s : State) : Host.Outcome State Fault Refusal := performAction actCmdr payload s

/-- `IN.CTRL.OTHER` (R165). -/
def execInCtrlOther (payload : Bytes) (s : State) : Host.Outcome State Fault Refusal :=
  performAction actCtrlOther payload s

/-- `IN.ACCEL` (R174). -/
def execInAccel (payload : Bytes) (s : State) : Host.Outcome State Fault Refusal := performAction actAccel payload s

/-- `IN.GYRO` (R175). -/
def execInGyro (payload : Bytes) (s : State) : Host.Outcome State Fault Refusal := performAction actGyro payload s

/-- `IN.MAG` (R176). -/
def execInMag (payload : Bytes) (s : State) : Host.Outcome State Fault Refusal := performAction actMag payload s

/-- `IN.LINACCEL` (R177). -/
def execInLinAccel (payload : Bytes) (s : State) : Host.Outcome State Fault Refusal :=
  performAction actLinAccel payload s

/-- `IN.ROTVEC` (R178). -/
def execInRotVec (payload : Bytes) (s : State) : Host.Outcome State Fault Refusal :=
  performAction actRotVec payload s

/-- `IN.GAMEROTVEC` (R179). -/
def execInGameRotVec (payload : Bytes) (s : State) : Host.Outcome State Fault Refusal :=
  performAction actGameRotVec payload s

/-- `IN.STEPS` (R180). -/
def execInSteps (payload : Bytes) (s : State) : Host.Outcome State Fault Refusal := performAction actSteps payload s

/-- `IN.STABILITY` (R181). -/
def execInStability (payload : Bytes) (s : State) : Host.Outcome State Fault Refusal :=
  performAction actStability payload s

/-- `IN.ACTIVITY` (R182). -/
def execInActivity (payload : Bytes) (s : State) : Host.Outcome State Fault Refusal :=
  performAction actActivity payload s

/-- `IN.SUB.OTHER` (R183, R184). -/
def execInSubOther (payload : Bytes) (s : State) : Host.Outcome State Fault Refusal :=
  performAction actSubOther payload s

/-- `IN.REPORTS.OTHER` (R167). -/
def execInReportsOther (payload : Bytes) (s : State) : Host.Outcome State Fault Refusal :=
  performAction actReportsOther payload s

/-- `IN.CH0` (R168). -/
def execInCh0 (payload : Bytes) (s : State) : Host.Outcome State Fault Refusal := performAction actCh0 payload s

/-- `IN.CH.OTHER` (R169). -/
def execInChOther (channel : Byte) (payload : Bytes) (s : State) : Host.Outcome State Fault Refusal :=
  performAction (actChOther channel) payload s

/-- `decode` (R160). -/
def execDecode (channel : Byte) (payload : Bytes) (s : State) : Host.Outcome State Fault Refusal :=
  perform s fun w => (decodeOp channel payload w).bind fun r => .done (.decoded r.1, r.2)

end Sys2Proof.Machine
end

