-- ==== Sys2Proof/Machine/SessionControl.lean ====
section
/-! DEFINITION. Session control: the host operations `open`, `enable`, `poll` and the internal operations
`resetSequence`, `drain`, `replay`, `account` (45_session.md). -/

namespace Sys2Proof.Machine

/-- Whether `open` is admitted in a state (R221). -/
def openAdmitted : Fsm → Bool
  | .uninitialized => true
  | .resetting => true
  | .awaitingHandshake => false
  | .ready => false

/-- `open()` (R222): the reset sequence; it does not wait for the response. -/
def openOp (w : Work) : Run (HostResult × Work) :=
  if openAdmitted w.session.fsm then
    (resetOp w).bind fun r =>
    match r.1 with
    | .completed => .done (.ok, r.2)
    | .aborted => .done (.failed, r.2)
  else .refused .notAdmitted

/-- `enable(reportId, intervalMillis, specificConfig)` (R225): recorded before the write; a failed write below the
threshold is absorbed. -/
def enableOp (reportId : Byte) (intervalMillis : Nat) (specificConfig : Word32) (w : Work) :
    Run (HostResult × Work) :=
  if w.session.fsm = .ready then
    if 4294967 < intervalMillis then .refused .intervalTooLong
    else
      (setFeatureOp reportId intervalMillis specificConfig).bind fun p =>
      (sendOp p.1 p.2 { w with session := { w.session with
        active := activeWrite ⟨reportId, intervalMillis, specificConfig⟩ w.session.active } }).bind fun r =>
      (accountOp (!r.1) r.2).bind fun a =>
      match a.1 with
      | .tripped => .done (.failed, a.2)
      | .normal => .done (.ok, a.2)
  else .refused .notAdmitted

/-- The handshake transition of `poll`: taken on `HandshakeAck` in AwaitingHandshake, else nothing (R226, R227). -/
def pollHandshake (o : DecodeOutcome) (w : Work) : Run (Bool × Work) :=
  if o = .handshakeAck ∧ w.session.fsm = .awaitingHandshake then handshakeOp w else .done (false, w)

/-- The end of a `poll` that reached a deframe: the accounting, and the class returned (R226, R231). -/
def pollReturn (failedNow : Bool) (c : PollClass) (o : PollOutcome) (w : Work) :
    Run ((PollClass × PollOutcome) × Work) :=
  (accountOp failedNow w).bind fun a =>
  match a.1 with
  | .tripped => .done ((.failed, o), a.2)
  | .normal => .done ((c, o), a.2)

/-- `poll` with a packet in hand: decode, handshake, accounting (R226). -/
def pollPacket (channel : Byte) (payload : Bytes) (w : Work) : Run ((PollClass × PollOutcome) × Work) :=
  (decodeOp channel payload w).bind fun d =>
  (pollHandshake d.1 d.2).bind fun h =>
  pollReturn h.1 (classOf d.1) (.decoded d.1) h.2

/-- `poll` in AwaitingHandshake or Ready: exactly one deframe (R226). -/
def pollReceive (w : Work) : Run ((PollClass × PollOutcome) × Work) :=
  (deframeOp w.session.cfg w.bus).bind fun d =>
  match d.1 with
  | .transportError => pollReturn true .noData .transportError { w with bus := d.2 }
  | .truncated => pollReturn true .noData .truncated { w with bus := d.2 }
  | .noData => pollReturn false .noData .noData { w with bus := d.2 }
  | .packet channel _ payload _ => pollPacket channel payload { w with bus := d.2 }

/-- `poll` in Resetting: the retry of an abandoned reset (R226). -/
def pollRetry (w : Work) : Run ((PollClass × PollOutcome) × Work) :=
  (resetOp w).bind fun r =>
  match r.1 with
  | .completed => .done ((.noData, .resetCompleted), r.2)
  | .aborted => .done ((.failed, .resetAborted), r.2)

/-- `poll()` (R226). -/
def pollOp (w : Work) : Run ((PollClass × PollOutcome) × Work) :=
  match w.session.fsm with
  | .uninitialized => .refused .notAdmitted
  | .resetting => pollRetry w
  | .awaitingHandshake => pollReceive w
  | .ready => pollReceive w

/-! ### As instructions -/

/-- `open` (R222). -/
def execOpen (s : State) : Host.Outcome State Fault Refusal :=
  perform s fun w => (openOp w).bind fun r => .done (.host r.1, r.2)

/-- `enable` (R225). -/
def execEnable (reportId : Byte) (intervalMillis : Nat) (specificConfig : Word32) (s : State) :
    Host.Outcome State Fault Refusal :=
  perform s fun w =>
    (enableOp reportId intervalMillis specificConfig w).bind fun r => .done (.host r.1, r.2)

/-- `poll` (R226). -/
def execPoll (s : State) : Host.Outcome State Fault Refusal :=
  perform s fun w => (pollOp w).bind fun r => .done (.polled r.1.1 r.1.2, r.2)

/-- `resetSequence` (R223). -/
def execResetSequence (s : State) : Host.Outcome State Fault Refusal :=
  perform s fun w => (resetOp w).bind fun r => .done (.reset r.1, r.2)

/-- `drain` (R224). -/
def execDrain (s : State) : Host.Outcome State Fault Refusal :=
  perform s fun w => (drainOp w.session.cfg w.bus).bind fun d => .done (.reset d.1, { w with bus := d.2 })

/-- `replay` (R228). -/
def execReplay (s : State) : Host.Outcome State Fault Refusal :=
  perform s fun w => (replayOp w).bind fun r => .done (.replayed r.1, r.2)

/-- `account` (R229, R230). -/
def execAccount (failedNow : Bool) (s : State) : Host.Outcome State Fault Refusal :=
  perform s fun w => (accountOp failedNow w).bind fun r => .done (.accounted r.1, r.2)

end Sys2Proof.Machine
end

