-- ==== Sys2Proof/Machine/Dispatch.lean ====
section
/-! DEFINITION. One arm per row of spec/opcode_table.json. -/

namespace Sys2Proof.Machine

def exec (i : Instr) (s : State) : Host.Outcome State Fault Refusal :=
  match i with
  | .inPidr payload => Sys2Proof.Machine.execInPidr payload s
  | .inCmdr payload => Sys2Proof.Machine.execInCmdr payload s
  | .inCtrlOther payload => Sys2Proof.Machine.execInCtrlOther payload s
  | .inAccel payload => Sys2Proof.Machine.execInAccel payload s
  | .inGyro payload => Sys2Proof.Machine.execInGyro payload s
  | .inMag payload => Sys2Proof.Machine.execInMag payload s
  | .inLinAccel payload => Sys2Proof.Machine.execInLinAccel payload s
  | .inRotVec payload => Sys2Proof.Machine.execInRotVec payload s
  | .inGameRotVec payload => Sys2Proof.Machine.execInGameRotVec payload s
  | .inSteps payload => Sys2Proof.Machine.execInSteps payload s
  | .inStability payload => Sys2Proof.Machine.execInStability payload s
  | .inActivity payload => Sys2Proof.Machine.execInActivity payload s
  | .inSubOther payload => Sys2Proof.Machine.execInSubOther payload s
  | .inReportsOther payload => Sys2Proof.Machine.execInReportsOther payload s
  | .inCh0 payload => Sys2Proof.Machine.execInCh0 payload s
  | .inChOther channel payload => Sys2Proof.Machine.execInChOther channel payload s
  | .outSetf reportId intervalMicros specificConfig => Sys2Proof.Machine.execOutSetf reportId intervalMicros specificConfig s
  | .outSrst => Sys2Proof.Machine.execOutSrst s
  | .outPidq => Sys2Proof.Machine.execOutPidq s
  | .header h => Sys2Proof.Machine.execHeader h s
  | .openSession => Sys2Proof.Machine.execOpen s
  | .enable reportId intervalMillis specificConfig => Sys2Proof.Machine.execEnable reportId intervalMillis specificConfig s
  | .poll => Sys2Proof.Machine.execPoll s
  | .resetSequence => Sys2Proof.Machine.execResetSequence s
  | .drain => Sys2Proof.Machine.execDrain s
  | .replay => Sys2Proof.Machine.execReplay s
  | .account failedNow => Sys2Proof.Machine.execAccount failedNow s
  | .frame channel sequence payload => Sys2Proof.Machine.execFrame channel sequence payload s
  | .send channel payload => Sys2Proof.Machine.execSend channel payload s
  | .deframe => Sys2Proof.Machine.execDeframe s
  | .nextSequence channel => Sys2Proof.Machine.execNextSequence channel s
  | .decode channel payload => Sys2Proof.Machine.execDecode channel payload s
  | .buildSetFeature reportId intervalMillis specificConfig => Sys2Proof.Machine.execBuildSetFeature reportId intervalMillis specificConfig s
  | .buildSoftReset => Sys2Proof.Machine.execBuildSoftReset s
  | .buildProductIdRequest => Sys2Proof.Machine.execBuildProductIdRequest s
  | .dequantize raw q => Sys2Proof.Machine.execDequantize raw q s

end Sys2Proof.Machine
end

