-- ==== Sys2Proof/Machine/ReadPort.lean ====
section
/-! DEFINITION. The client's read port (R37, R215, R220, R233): the stored record with the physical value of every
converted field. A read changes nothing. -/

namespace Sys2Proof.Machine

/-- The physical value of a word with an exponent of the configuration (R37, R215). -/
def physicalValue (raw : Word16) (q : Nat) : Word32 := dequantizeBits raw (q : Int)

/-- The physical value of the radian-accuracy word: none without a word, and none until `qRotAcc` is given
(R214, R215, log 4). -/
def radianAccuracyValue (cfg : Config) (raw : Option Word16) : Option Word32 :=
  match raw, cfg.qRotAcc with
  | some r, some q => some (physicalValue r q)
  | _, _ => none

/-- A triplet slot as it is read with its exponent (R37). -/
def tripletView (q : Nat) (r : Triplet) : View :=
  .triplet r (physicalValue r.x q) (physicalValue r.y q) (physicalValue r.z q)

/-- The quaternion slot as it is read (R32, R37). -/
def quaternionView (cfg : Config) (r : Quaternion) : View :=
  .quaternion r (physicalValue r.i cfg.qRot) (physicalValue r.j cfg.qRot) (physicalValue r.k cfg.qRot)
    (r.real.map (fun w => physicalValue w cfg.qRot)) (radianAccuracyValue cfg r.radAcc)

/-- What the client reads at a port; none for an unwritten slot or a field that holds no value (R27). -/
def readPort (p : Port) (s : Session) : Option View :=
  match p with
  | .accel => s.accel.map (tripletView s.cfg.qAccel)
  | .linAccel => s.linAccel.map (tripletView s.cfg.qLinAccel)
  | .gyro => s.gyro.map (tripletView s.cfg.qGyro)
  | .mag => s.mag.map (tripletView s.cfg.qMag)
  | .quat => s.quat.map (quaternionView s.cfg)
  | .quatReal => (s.quat.bind (·.real)).map (fun w => .physical (physicalValue w s.cfg.qRot))
  | .quatRadAcc => (s.quat.bind (fun r => radianAccuracyValue s.cfg r.radAcc)).map .physical
  | .steps => s.steps.map .steps
  | .stability => s.stability.map .stability
  | .activity => s.activity.map .activity
  | .calib => s.calib.map .calibration
  | .fsm => some (.fsm s.fsm)
  | .failCount => some (.failCount s.failCount)
  | .handshakeComplete => some (.handshakeComplete s.handshakeComplete)

/-- A client read: "a client read of an unwritten slot, or of a field that holds no value, is refused" (R27, decision
D21, U5); nothing of the session changes (R233). -/
def clientRead (p : Port) (s : State) : Host.Outcome State Fault Refusal :=
  perform s fun w =>
    match readPort p w.session with
    | some v => .done (.viewed v, w)
    | none => .refused .noValue

end Sys2Proof.Machine
end

