-- ==== Sys2Proof/Machine/Fetch.lean ====
section
/-! DEFINITION. What the machine runs next and how one action runs (R39, R75, R234; log 8). -/

namespace Sys2Proof.Machine

/-- An operation called by name, refused where its row does not admit the operands (R112). -/
def runCall (i : Instr) (s : State) : Host.Outcome State Fault Refusal :=
  if i.wellFormed then exec i s else .refused .operandsNotOfRow

/-- The instruction that bytes decode to, run; refused by the decoder's reason where they decode to none. -/
def runWire (f : Form) (bytes : Bytes) (s : State) : Host.Outcome State Fault Refusal :=
  match decode f bytes with
  | .ok i => exec i s
  | .error e => .refused (.undecodable e)

/-- One action of the host. -/
def runAction (a : Action) (s : State) : Host.Outcome State Fault Refusal :=
  match a with
  | .call i => runCall i s
  | .wire f bytes => runWire f bytes s
  | .read p => clientRead p s

/-- The action is over once its operation has returned; while the operation awaits an answer the action stays
(R234, log 19). -/
def retire (o : Host.Outcome State Fault Refusal) : Host.Outcome State Fault Refusal :=
  match o with
  | .next t => if t.inProgress.isNone then .next { t with pending := t.pending.tail } else .next t
  | .fault r => .fault r
  | .refused r => .refused r

/-- The next action, or nothing at all: "between host operations the block does nothing" (R234). -/
def runNext (s : State) : Host.Outcome State Fault Refusal :=
  match s.pending with
  | [] => .next s
  | a :: _ => retire (runAction a s)

/-- A word of the table put where the next step takes its action from; a number of bits that no row has changes
nothing (log 8, 9). -/
def placeWord (s : State) (nbits w : Nat) : State :=
  match tableWordBytes nbits w with
  | some (f, bytes) => { s with pending := .wire f bytes :: s.pending, inProgress := none }
  | none => s

end Sys2Proof.Machine
end

