-- ==== Sys2Proof/Safety.lean ====
section
/-! DEFINITION. The terms the statements are written in: the state after an operation that returned, the invariants of
the session and of the event history, what arrives on the bus, which instruction may write what. -/

namespace Sys2Proof.Machine

/-! ### The state after an operation -/

/-- The state after an operation has returned a result: nothing else of the state changes. -/
def State.after (s : State) (r : Result) (session : Session) (bus : Bus) : State :=
  { s with session := session, bus := bus, inProgress := none, returned := r }

/-- The transport after `n` transactions that added these events. -/
def Bus.advance (b : Bus) (n : Nat) (events : List Event) : Bus :=
  { b with answers := b.answers.drop n, history := b.history ++ events }

/-- The transport with further answers listed after those it has. -/
def Bus.withMore (b : Bus) (more : List Answer) : Bus := { b with answers := b.answers ++ more }

/-- The state with further answers of the transport listed. -/
def State.withMore (s : State) (more : List Answer) : State := { s with bus := s.bus.withMore more }

/-- What an operation works on, with further answers of the transport listed. -/
def Work.withMore (w : Work) (more : List Answer) : Work := { w with bus := w.bus.withMore more }

/-- An instruction executed so many times, one after another, stopping where one does not return. -/
def callTimes : Nat → Instr → State → Host.Outcome State Fault Refusal
  | 0, _, s => .next s
  | k + 1, i, s =>
    match exec i s with
    | .next t => callTimes k i t
    | .fault r => .fault r
    | .refused r => .refused r

/-! ### What arrives on the bus -/

/-- A probe answer that carries no payload: the low 15 bits of its length field are 4 or less (R135). -/
def emptyProbe : Bytes → Bool
  | [l, m, _, _] => decide (m.toNat % 128 * 256 + l.toNat ≤ 4)
  | _ => false

/-- The chunk answers, each a 4-byte prefix and the payload bytes after it, deliver this payload in the sizes the
deframer asks for (R137). -/
def deliversInChunks (ceiling : Nat) : List (Bytes × Bytes) → Bytes → Bool
  | [], payload => payload.isEmpty
  | piece :: rest, payload =>
    decide (piece.1.length = 4) && !payload.isEmpty && decide (piece.2 = payload.take (ceiling - 4)) &&
    deliversInChunks ceiling rest (payload.drop (ceiling - 4))

/-- The chunk answers, each 4 prefix bytes and then as many payload bytes as a chunk may carry (R137). -/
def fullChunks (ceiling : Nat) (pieces : List (Bytes × Bytes)) : Bool :=
  pieces.all (fun piece => decide (piece.1.length = 4) && decide (piece.2.length = ceiling - 4))

/-- The answers of the transport that such pieces are. -/
def pieceAnswers (pieces : List (Bytes × Bytes)) : List Answer := pieces.map (fun p => .ok (p.1 ++ p.2))

/-- The read transactions that such pieces answer. -/
def pieceEvents (pieces : List (Bytes × Bytes)) : List Event :=
  pieces.map (fun p => .read (p.2.length + 4) (some (p.1 ++ p.2)))

/-! ### Outbound packets, byte by byte (R112 part B) -/

/-- `15 00 02 ss FD rr 00 00 00 i0 i1 i2 i3 00 00 00 00 c0 c1 c2 c3`. -/
def setFeatureImage (ss rr : Byte) (intervalMicros specificConfig : Word32) : Bytes :=
  [0x15, 0x00, 0x02, ss, 0xFD, rr, 0x00, 0x00, 0x00,
   intervalMicros.extractLsb' 0 8, intervalMicros.extractLsb' 8 8, intervalMicros.extractLsb' 16 8,
   intervalMicros.extractLsb' 24 8, 0x00, 0x00, 0x00, 0x00,
   specificConfig.extractLsb' 0 8, specificConfig.extractLsb' 8 8, specificConfig.extractLsb' 16 8,
   specificConfig.extractLsb' 24 8]

/-- `05 00 01 ss 01`. -/
def softResetImage (ss : Byte) : Bytes := [0x05, 0x00, 0x01, ss, 0x01]

/-- `06 00 02 ss F9 00`. -/
def productIdImage (ss : Byte) : Bytes := [0x06, 0x00, 0x02, ss, 0xF9, 0x00]

/-- One of the three packets the block ever sends (R204). -/
def isOutboundPacket (bytes : Bytes) : Prop :=
  (∃ ss rr ms cfg, bytes = setFeatureImage ss rr ms cfg) ∨ (∃ ss, bytes = softResetImage ss) ∨
  (∃ ss, bytes = productIdImage ss)

/-- A write of these bytes with this answer, and the condition it raises when it fails (R132). -/
def writeEvents (bytes : Bytes) (a : Answer) : List Event :=
  .write bytes (writeResult a) :: (if writeResult a then [] else [.raised .transportError])

/-- The events of a replay: one write per entry, the sequence byte one higher each time (R228). -/
def replayTrace : Byte → List ActiveEntry → List Answer → List Event
  | ss, e :: rest, a :: more =>
    writeEvents (setFeatureImage ss e.reportId (BitVec.ofNat 32 (e.intervalMillis * 1000)) e.specificConfig) a ++
      replayTrace (ss + 1) rest more
  | _, _, _ => []

/-! ### Invariants -/

/-- What holds of the session between host operations. -/
structure SessionInv (s : Session) : Prop where
  /-- The configuration is well formed (R7, R26). -/
  configuration : configWf s.cfg = true
  /-- `S.failCount` is in 0..FAIL_THRESHOLD-1 (R23). -/
  failCount : s.failCount < s.cfg.failThreshold
  /-- `Ready` is reached only by a handshake, and what clears the flag leaves `Ready` (R24, R223, R227). -/
  handshake : s.fsm = .ready → s.handshakeComplete = true
  /-- One entry per report id, in ascending order (R25). -/
  record : activeCanonical s.active = true
  /-- Every recorded interval fits the u32 of microseconds (R25, R201). -/
  intervals : ∀ e ∈ s.active, e.intervalMillis ≤ 4294967
  /-- The quaternion slot says which of the two ids wrote it, and has a radian accuracy only with a real
  component (R32, R173). -/
  quaternion : ∀ q, s.quat = some q → (q.source = 0x05 ∨ q.source = 0x08) ∧ (q.radAcc.isSome → q.real.isSome)

/-- A transaction of the length the block may issue, its result as long as was asked (R61, R62, R64). -/
def legalEvent (ceiling : Nat) : Event → Prop
  | .write bytes _ => 1 ≤ bytes.length ∧ bytes.length ≤ ceiling
  | .read n result => (n = 4 ∨ 5 ≤ n ∧ n ≤ ceiling) ∧ ∀ bytes, result = some bytes → bytes.length = n
  | .raised _ => True

/-- Whether an event is a bus transaction. -/
def isTransaction : Event → Bool
  | .write _ _ => true
  | .read _ _ => true
  | .raised _ => false

/-- A transaction of a length the block may issue (R61, R62, R64). -/
def legalTransaction (ceiling : Nat) : Transaction → Prop
  | .write bytes => 1 ≤ bytes.length ∧ bytes.length ≤ ceiling
  | .read n => n = 4 ∨ 5 ≤ n ∧ n ≤ ceiling

/-- How many of the events are bus transactions. -/
def transactionCount (events : List Event) : Nat := (events.filter isTransaction).length

/-- The transport after some legal events, each transaction among them having taken one answer, and nothing else
changed (R65, R75, R82). -/
def Bus.grewBy (ceiling : Nat) (events : List Event) (b c : Bus) : Prop :=
  (∀ e ∈ events, legalEvent ceiling e) ∧ transactionCount events ≤ b.answers.length ∧
  c = b.advance (transactionCount events) events

/-- Some legal events have passed (R82). -/
def Bus.grew (ceiling : Nat) (b c : Bus) : Prop := ∃ events, b.grewBy ceiling events c

/-- An operation in progress has met every listed answer, its events are legal, and so is what it awaits
(R42, R299). -/
def awaits (ceiling : Nat) (b : Bus) (f : InFlight) : Prop :=
  (∀ e ∈ f.events, legalEvent ceiling e) ∧ transactionCount f.events = b.answers.length ∧
  legalTransaction ceiling f.awaiting

/-! ### Which instruction may write what (R38) -/

/-- The host operations (R220). -/
def isHostOperation : Instr → Bool
  | .openSession => true
  | .enable _ _ _ => true
  | .poll => true
  | _ => false

/-- The operations of session control, the host's and the internal ones (R112 part C). -/
def isSessionOperation : Instr → Bool
  | .openSession | .enable _ _ _ | .poll | .resetSequence | .drain | .replay | .account _ => true
  | _ => false

/-- The instructions in which the Report Decoder takes part: the inbound rows, `decode`, `poll`. -/
def decodes : Instr → Bool
  | .inPidr _ | .inCmdr _ | .inCtrlOther _ | .inAccel _ | .inGyro _ | .inMag _ | .inLinAccel _ | .inRotVec _
  | .inGameRotVec _ | .inSteps _ | .inStability _ | .inActivity _ | .inSubOther _ | .inReportsOther _ | .inCh0 _
  | .inChOther _ _ | .decode _ _ | .poll => true
  | _ => false

/-- The instructions in which the Channel Sequencer takes part. -/
def sequences : Instr → Bool
  | .outSetf _ _ _ | .outSrst | .outPidq | .send _ _ | .nextSequence _ | .replay | .openSession | .enable _ _ _
  | .poll | .resetSequence | .account _ => true
  | _ => false

/-- The instructions in which session control may write its registers. -/
def controls : Instr → Bool
  | .openSession | .enable _ _ _ | .poll | .resetSequence | .account _ => true
  | _ => false

/-- The nine value slots are the same (R27). -/
def sameSlots (s t : Session) : Prop :=
  t.accel = s.accel ∧ t.linAccel = s.linAccel ∧ t.gyro = s.gyro ∧ t.mag = s.mag ∧ t.quat = s.quat ∧
  t.steps = s.steps ∧ t.stability = s.stability ∧ t.activity = s.activity ∧ t.calib = s.calib

/-- The session with one slot of this kind written and nothing else changed (R27, R186). -/
def wroteSlot (k : Kind) (s t : Session) : Prop :=
  match k with
  | .accel => ∃ r, t = { s with accel := some r }
  | .gyro => ∃ r, t = { s with gyro := some r }
  | .mag => ∃ r, t = { s with mag := some r }
  | .linAccel => ∃ r, t = { s with linAccel := some r }
  | .rotVec => ∃ r, r.source = 0x05 ∧ t = { s with quat := some r }
  | .gameRotVec => ∃ r, r.source = 0x08 ∧ t = { s with quat := some r }
  | .steps => ∃ r, t = { s with steps := some r }
  | .stability => ∃ r, t = { s with stability := some r }
  | .activity => ∃ r, t = { s with activity := some r }

/-- The moves of `S.fsm` that a host operation can make from its start to its return (R232); the passage through
`Resetting` or `Ready` inside one operation is not visible. -/
def fsmMove : Fsm → Fsm → Bool
  | .uninitialized, .resetting => true
  | .uninitialized, .awaitingHandshake => true
  | .resetting, .resetting => true
  | .resetting, .awaitingHandshake => true
  | .awaitingHandshake, .awaitingHandshake => true
  | .awaitingHandshake, .ready => true
  | .awaitingHandshake, .resetting => true
  | .ready, .ready => true
  | .ready, .resetting => true
  | .ready, .awaitingHandshake => true
  | _, _ => false

/-- A packet's bytes with the continuation flag cleared (R91). -/
def withoutFlag (bytes : Bytes) : Bytes := bytes.modify 1 (fun b => b &&& 0x7F)

end Sys2Proof.Machine
end

