-- ==== Sys2Proof/Certificates/Slice0/Obligations.lean ====
section
/-! DEFINITION. The statements for the provers. -/

open Sys2Proof Sys2Proof.Machine

/-! ### Power-on and the step -/

/-- R290: power-on sets every piece of state as the rules R21 to R36 say, with whatever well-formed configuration the
session is constructed; no transaction has been issued, the block does nothing until the host issues an operation, and
the only host operation admitted is `open`. -/
def Obligations.ResetStateIsPowerOn : Prop :=
  ∀ c : Config, configWf c = true →
    let s : State := { State.reset with session := { State.reset.session with cfg := c } }
    s.session.fsm = .uninitialized ∧
    s.session.seq = #v[0, 0, 0, 0, 0, 0] ∧
    s.session.failCount = 0 ∧
    s.session.handshakeComplete = false ∧
    (∀ r, activeLookup r s.session.active = none) ∧
    s.session.accel = none ∧ s.session.linAccel = none ∧ s.session.gyro = none ∧ s.session.mag = none ∧
    s.session.quat = none ∧ s.session.steps = none ∧ s.session.stability = none ∧ s.session.activity = none ∧
    s.session.calib = none ∧
    s.bus.history = [] ∧
    step s = .next s ∧
    (∃ t, exec .openSession s = .next t) ∧
    (∀ r ms x, exec (.enable r ms x) s = .refused .notAdmitted) ∧
    exec .poll s = .refused .notAdmitted

/-- When the bytes at the head of what the host does decode to an instruction, the step is exec of that instruction;
around it the step takes the action off the list once the operation has returned (log 8, log 19). Bytes that decode to
no instruction are refused with the decoder's reason (log 11). -/
def Obligations.StepRunsDecodedInstruction : Prop :=
  ∀ (s : State) (f : Form) (bytes : Bytes) (rest : List Action), s.pending = .wire f bytes :: rest →
    (∀ i : Instr, decode f bytes = .ok i →
      step s =
        match exec i s with
        | .next t => .next (if t.inProgress = none then { t with pending := rest } else t)
        | .fault r => .fault r
        | .refused r => .refused r) ∧
    (∀ e, decode f bytes = .error e → step s = .refused (.undecodable e))

/-- An operation issued by name runs as exec of it, and is taken off the list once it has returned; operands that no
row of R112 admits are refused. How operations are issued is the model's choice (log 8, log 10). -/
def Obligations.StepRunsCalledOperation : Prop :=
  ∀ (s : State) (rest : List Action) (i : Instr), s.pending = .call i :: rest →
    (i.wellFormed = true →
      step s =
        match exec i s with
        | .next t => .next (if t.inProgress = none then { t with pending := rest } else t)
        | .fault r => .fault r
        | .refused r => .refused r) ∧
    (i.wellFormed = false → step s = .refused .operandsNotOfRow)

/-- R234, R233, R27: with nothing to do the step changes nothing; a client read delivers what the port shows and
changes nothing of the session, the bus or its history; a read of what holds no value is refused. -/
def Obligations.StepIdlesAndReads : Prop :=
  ∀ s : State,
    (s.pending = [] → step s = .next s) ∧
    ∀ (p : Port) (rest : List Action), s.pending = .read p :: rest → configWf s.session.cfg = true →
      (∀ v, readPort p s.session = some v →
        step s = .next { s with pending := rest, inProgress := none, returned := .viewed v }) ∧
      (readPort p s.session = none → step s = .refused .noValue)

/-! ### The read port -/

/-- R27, R37, R215: the port delivers the stored record and, for every converted field, a finite binary32 equal to the
word times 2^(-Q) with the Q of the slot's rule; the other fields are not converted; a field with no value has no
converted value, and neither has the radian accuracy while its exponent has not been given (log 4); a read of an
unwritten slot, or of one such field alone, has no value. That the two optional fields can be read alone is the model's
form of the port (log 21); the binary32 parameters are general knowledge (GK1, log 17). -/
def Obligations.ReadPortGivesPhysicalValues : Prop :=
  ∀ s : Session, configWf s.cfg = true →
    (∀ (q : Nat) (r : Triplet) (p : Port),
      (p = .accel ∧ s.accel = some r ∧ q = s.cfg.qAccel) ∨ (p = .linAccel ∧ s.linAccel = some r ∧ q = s.cfg.qLinAccel) ∨
      (p = .gyro ∧ s.gyro = some r ∧ q = s.cfg.qGyro) ∨ (p = .mag ∧ s.mag = some r ∧ q = s.cfg.qMag) →
      ∃ x y z, readPort p s = some (.triplet r x y z) ∧
        (floatFinite x = true ∧ floatValue x = (sext16 r.x : Rat) * 2 ^ (-(q : Int))) ∧
        (floatFinite y = true ∧ floatValue y = (sext16 r.y : Rat) * 2 ^ (-(q : Int))) ∧
        (floatFinite z = true ∧ floatValue z = (sext16 r.z : Rat) * 2 ^ (-(q : Int)))) ∧
    (∀ r, s.quat = some r →
      ∃ i j k real radAcc, readPort .quat s = some (.quaternion r i j k real radAcc) ∧
        floatValue i = (sext16 r.i : Rat) * 2 ^ (-(s.cfg.qRot : Int)) ∧
        floatValue j = (sext16 r.j : Rat) * 2 ^ (-(s.cfg.qRot : Int)) ∧
        floatValue k = (sext16 r.k : Rat) * 2 ^ (-(s.cfg.qRot : Int)) ∧
        real.map floatValue = r.real.map (fun w => (sext16 w : Rat) * 2 ^ (-(s.cfg.qRot : Int))) ∧
        (∀ q, s.cfg.qRotAcc = some q →
          radAcc.map floatValue = r.radAcc.map (fun w => (sext16 w : Rat) * 2 ^ (-(q : Int)))) ∧
        (s.cfg.qRotAcc = none → radAcc = none)) ∧
    (∀ r, s.steps = some r → readPort .steps s = some (.steps r)) ∧
    (∀ r, s.stability = some r → readPort .stability s = some (.stability r)) ∧
    (∀ r, s.activity = some r → readPort .activity s = some (.activity r)) ∧
    (∀ r, s.calib = some r → readPort .calib s = some (.calibration r)) ∧
    (∀ r w, s.quat = some r → r.real = some w → ∃ x, readPort .quatReal s = some (.physical x) ∧
      floatFinite x = true ∧ floatValue x = (sext16 w : Rat) * 2 ^ (-(s.cfg.qRot : Int))) ∧
    (∀ r w q, s.quat = some r → r.radAcc = some w → s.cfg.qRotAcc = some q →
      ∃ x, readPort .quatRadAcc s = some (.physical x) ∧
        floatFinite x = true ∧ floatValue x = (sext16 w : Rat) * 2 ^ (-(q : Int))) ∧
    (∀ r, s.quat = some r → r.real = none → readPort .quatReal s = none) ∧
    (∀ r, s.quat = some r → r.radAcc = none ∨ s.cfg.qRotAcc = none → readPort .quatRadAcc s = none) ∧
    (s.accel = none → readPort .accel s = none) ∧ (s.linAccel = none → readPort .linAccel s = none) ∧
    (s.gyro = none → readPort .gyro s = none) ∧ (s.mag = none → readPort .mag s = none) ∧
    (s.quat = none → readPort .quat s = none ∧ readPort .quatReal s = none ∧ readPort .quatRadAcc s = none) ∧
    (s.steps = none → readPort .steps s = none) ∧ (s.stability = none → readPort .stability s = none) ∧
    (s.activity = none → readPort .activity s = none) ∧ (s.calib = none → readPort .calib s = none) ∧
    readPort .fsm s = some (.fsm s.fsm) ∧ readPort .failCount s = some (.failCount s.failCount) ∧
    readPort .handshakeComplete s = some (.handshakeComplete s.handshakeComplete)

/-! ### Decoding and encoding -/

/-- A few words written out from R112: packets and headers decode to the instruction they stand for. That a dispatch
word of the table is laid out as a packet with a payload of 20 bytes, the others 0, and that 24 bits are such a word, is
the model's choice (log 9, log 23). -/
def Obligations.DecodeReadsWrittenWords : Prop :=
  (∀ ss, decode .outbound [0x05, 0x00, 0x01, ss, 0x01] = .ok .outSrst) ∧
  (∀ ss, decode .outbound [0x06, 0x00, 0x02, ss, 0xF9, 0x00] = .ok .outPidq) ∧
  decode .outbound [0x15, 0x00, 0x02, 0x01, 0xFD, 0x05, 0x00, 0x00, 0x00, 0x10, 0x27, 0x00, 0x00, 0x00, 0x00, 0x00,
    0x00, 0x04, 0x03, 0x02, 0x01] = .ok (.outSetf 0x05 10000 0x01020304) ∧
  (∀ ss, decode .inbound [0x08, 0x80, 0x02, ss, 0xF8, 0x00, 0x00, 0x00] = .ok (.inPidr [0xF8, 0x00, 0x00, 0x00])) ∧
  decode .header [0x13, 0x80, 0x03, 0x2A] = .ok (.header ⟨19, true, 3, 0x2A⟩) ∧
  decodeTableWord 24 0x03FB1E = some (.inActivity (dispatchPayload 0xFB 0x1E)) ∧
  decode .outbound [0x06, 0x00, 0x02, 0x00, 0xF2, 0x00] = .error .notOutbound

/-- Decoding the bytes of any well-formed instruction gives the instruction back, with every operand at every value
the encoding admits and whatever sequence byte was stamped. -/
def Obligations.DecodeOfEncodeIsTheInstruction : Prop :=
  ∀ (i : Instr) (ss : Byte) (f : Form) (bytes : Bytes),
    i.wellFormed = true → encode i ss = some (f, bytes) → decode f bytes = .ok i

/-- What the decoder accepts is well formed, and its encoding with the received sequence byte is the received string,
but for the continuation flag of an inbound packet, which takes no part (R118). -/
def Obligations.EncodeOfDecodeIsThePacket : Prop :=
  ∀ (f : Form) (bytes : Bytes) (i : Instr), decode f bytes = .ok i →
    i.wellFormed = true ∧
    encode i (bytes[3]?.getD 0) = some (f, if f = .header then bytes else withoutFlag bytes)

/-- R111, R112, R161: the dispatch in two levels is the first row of the map whose match and mask fit. -/
def Obligations.DispatchIsTheFirstMatchingRow : Prop :=
  ∀ (channel : Byte) (payload : Bytes), payload ≠ [] → classify channel payload = classifyByMap channel payload

/-! ### The report decoder -/

/-- R160, R161: in its domain `decode` is the row of its packet, and returns; it writes no history but the condition
of its outcome. Outside 1..CAPACITY bytes it is refused (the refusal is the model's reading, log 11). -/
def Obligations.DecodeRunsItsRow : Prop :=
  ∀ (s : State) (channel : Byte) (payload : Bytes), configWf s.session.cfg = true →
    (∀ r, classify channel payload = some r → payload.length ≤ s.session.cfg.capacity →
      exec (.decode channel payload) s = exec (r.instr channel payload) s ∧
      ∃ o t, exec (.decode channel payload) s = .next (s.after (.decoded o) t (recordOutcome o s.bus))) ∧
    (payload = [] ∨ s.session.cfg.capacity < payload.length →
      exec (.decode channel payload) s = .refused .payloadOutOfDomain)

/-- R174 to R177: a triplet report of which 15 bytes or more are retained writes its own slot whole, bytes 6, 8 and from
15 on being ignored, and changes nothing else; a shorter one is `Incomplete` and writes nothing. What is retained of a
payload is its first CAPACITY bytes (R185). -/
def Obligations.TripletReportsWriteTheirSlots : Prop :=
  ∀ (s : State) (p : Bytes), configWf s.session.cfg = true →
    ((p.take s.session.cfg.capacity).length < 15 →
      let short := Host.Outcome.next (s.after (.decoded .incomplete) s.session (raise .incomplete s.bus))
      exec (.inAccel p) s = short ∧ exec (.inGyro p) s = short ∧ exec (.inMag p) s = short ∧
      exec (.inLinAccel p) s = short) ∧
    ∀ (b0 b1 b2 b3 b4 b5 b6 b7 b8 b9 b10 b11 b12 b13 b14 : Byte) (rest : Bytes),
    p.take s.session.cfg.capacity =
      b0 :: b1 :: b2 :: b3 :: b4 :: b5 :: b6 :: b7 :: b8 :: b9 :: b10 :: b11 :: b12 :: b13 :: b14 :: rest →
    let r : Triplet := ⟨b7.extractLsb' 0 2, b4 ++ b3 ++ b2 ++ b1, b10 ++ b9, b12 ++ b11, b14 ++ b13⟩
    exec (.inAccel p) s =
      .next (s.after (.decoded (.report .accel)) { s.session with accel := some r } s.bus) ∧
    exec (.inGyro p) s =
      .next (s.after (.decoded (.report .gyro)) { s.session with gyro := some r } s.bus) ∧
    exec (.inMag p) s =
      .next (s.after (.decoded (.report .mag)) { s.session with mag := some r } s.bus) ∧
    exec (.inLinAccel p) s =
      .next (s.after (.decoded (.report .linAccel)) { s.session with linAccel := some r } s.bus)

/-- R173, R178, R179: a rotation report writes the shared quaternion slot whole with the id that wrote it; with 15 or
16 bytes retained it has neither optional word, with 17 or 18 the real component, with 19 or more both; a report with
fewer than 15 bytes retained is `Incomplete` and writes nothing (R185). -/
def Obligations.RotationReportsWriteTheQuaternion : Prop :=
  ∀ (s : State) (p : Bytes), configWf s.session.cfg = true →
    ((p.take s.session.cfg.capacity).length < 15 →
      let short := Host.Outcome.next (s.after (.decoded .incomplete) s.session (raise .incomplete s.bus))
      exec (.inRotVec p) s = short ∧ exec (.inGameRotVec p) s = short) ∧
    ∀ (b0 b1 b2 b3 b4 b5 b6 b7 b8 b9 b10 b11 b12 b13 b14 : Byte) (rest : Bytes) (real radAcc : Option Word16),
    p.take s.session.cfg.capacity =
      b0 :: b1 :: b2 :: b3 :: b4 :: b5 :: b6 :: b7 :: b8 :: b9 :: b10 :: b11 :: b12 :: b13 :: b14 :: rest →
    (rest.length ≤ 1 ∧ real = none ∧ radAcc = none) ∨
    (∃ c0 c1 more, rest = c0 :: c1 :: more ∧ more.length ≤ 1 ∧ real = some (c1 ++ c0) ∧ radAcc = none) ∨
    (∃ c0 c1 c2 c3 more, rest = c0 :: c1 :: c2 :: c3 :: more ∧ real = some (c1 ++ c0) ∧ radAcc = some (c3 ++ c2)) →
    let r (source : Byte) : Quaternion :=
      ⟨b7.extractLsb' 0 2, b4 ++ b3 ++ b2 ++ b1, source, b10 ++ b9, b12 ++ b11, b14 ++ b13, real, radAcc⟩
    exec (.inRotVec p) s =
      .next (s.after (.decoded (.report .rotVec)) { s.session with quat := some (r 0x05) } s.bus) ∧
    exec (.inGameRotVec p) s =
      .next (s.after (.decoded (.report .gameRotVec)) { s.session with quat := some (r 0x08) } s.bus)

/-- R180, R181, R182: the step counter takes its third word, the stability classifier byte 9, the activity classifier
byte 10 and the nine bytes from 11, each with status and timestamp, from the retained payload; a shorter one is
`Incomplete` and writes nothing (R185). -/
def Obligations.CounterAndClassifierReports : Prop :=
  ∀ (s : State) (p : Bytes), configWf s.session.cfg = true →
    let retained := p.take s.session.cfg.capacity
    (∀ (b0 b1 b2 b3 b4 b5 b6 b7 b8 b9 b10 b11 b12 b13 b14 : Byte) (rest : Bytes),
      retained = b0 :: b1 :: b2 :: b3 :: b4 :: b5 :: b6 :: b7 :: b8 :: b9 :: b10 :: b11 :: b12 :: b13 :: b14 :: rest →
      exec (.inSteps p) s =
        .next (s.after (.decoded (.report .steps))
          { s.session with steps := some ⟨b7.extractLsb' 0 2, b4 ++ b3 ++ b2 ++ b1, b14 ++ b13⟩ } s.bus)) ∧
    (∀ (b0 b1 b2 b3 b4 b5 b6 b7 b8 b9 : Byte) (rest : Bytes),
      retained = b0 :: b1 :: b2 :: b3 :: b4 :: b5 :: b6 :: b7 :: b8 :: b9 :: rest →
      exec (.inStability p) s =
        .next (s.after (.decoded (.report .stability))
          { s.session with stability := some ⟨b7.extractLsb' 0 2, b4 ++ b3 ++ b2 ++ b1, b9⟩ } s.bus)) ∧
    (∀ (b0 b1 b2 b3 b4 b5 b6 b7 b8 b9 b10 c0 c1 c2 c3 c4 c5 c6 c7 c8 : Byte) (rest : Bytes),
      retained = b0 :: b1 :: b2 :: b3 :: b4 :: b5 :: b6 :: b7 :: b8 :: b9 :: b10 ::
        c0 :: c1 :: c2 :: c3 :: c4 :: c5 :: c6 :: c7 :: c8 :: rest →
      exec (.inActivity p) s =
        .next (s.after (.decoded (.report .activity))
          { s.session with activity := some ⟨b7.extractLsb' 0 2, b4 ++ b3 ++ b2 ++ b1, b10,
            #v[c0, c1, c2, c3, c4, c5, c6, c7, c8]⟩ } s.bus)) ∧
    let short := Host.Outcome.next (s.after (.decoded .incomplete) s.session (raise .incomplete s.bus))
    (retained.length < 15 → exec (.inSteps p) s = short) ∧
    (retained.length < 10 → exec (.inStability p) s = short) ∧
    (retained.length < 20 → exec (.inActivity p) s = short)

/-- R162, R163, R164: a product-id response marks the handshake complete; a command response is acknowledged, and the
one for ME_CALIBRATE (7) also writes the calibration status from byte 5; a command response of which too little is
retained is `Incomplete` (R185). -/
def Obligations.HandshakeAndCommandRows : Prop :=
  ∀ (s : State) (p : Bytes), configWf s.session.cfg = true →
    let retained := p.take s.session.cfg.capacity
    exec (.inPidr p) s =
      .next (s.after (.decoded .handshakeAck) { s.session with handshakeComplete := true } s.bus) ∧
    (∀ (b0 b1 command : Byte) (rest : Bytes), command ≠ 7 → retained = b0 :: b1 :: command :: rest →
      exec (.inCmdr p) s = .next (s.after (.decoded (.commandAck command)) s.session s.bus)) ∧
    (∀ (b0 b1 b3 b4 r0 : Byte) (rest : Bytes), retained = b0 :: b1 :: 7 :: b3 :: b4 :: r0 :: rest →
      exec (.inCmdr p) s = .next (s.after (.decoded (.commandAck 7)) { s.session with calib := some ⟨r0⟩ } s.bus)) ∧
    (retained.length < 3 ∨ (retained[2]? = some 7 ∧ retained.length < 6) →
      exec (.inCmdr p) s = .next (s.after (.decoded .incomplete) s.session (raise .incomplete s.bus)))

/-- R165, R167, R168, R169, R183: an unknown report id, an unknown sub-report id and every packet on channel 0 are
`UnrecognizedReport`; a packet on any other channel is `DataPresent`; no state is written. A sub-report id that is not
retained is R184's. -/
def Obligations.UnknownPacketsWriteNothing : Prop :=
  ∀ (s : State) (p : Bytes), configWf s.session.cfg = true → 1 ≤ p.length →
    let unrecognized :=
      Host.Outcome.next (s.after (.decoded .unrecognizedReport) s.session (raise .unrecognizedReport s.bus))
    let present := Host.Outcome.next (s.after (.decoded .dataPresent) s.session s.bus)
    let whole := p.length ≤ s.session.cfg.capacity
    (p[0]? ≠ some 0xF8 → p[0]? ≠ some 0xF1 →
      (whole → exec (.decode 2 p) s = unrecognized) ∧ exec (.inCtrlOther p) s = unrecognized) ∧
    (p[0]? ≠ some 0xFB →
      (whole → exec (.decode 3 p) s = unrecognized) ∧ exec (.inReportsOther p) s = unrecognized) ∧
    ((whole → exec (.decode 0 p) s = unrecognized) ∧ exec (.inCh0 p) s = unrecognized) ∧
    (p[0]? = some 0xFB → ∀ sub, p[5]? = some sub →
      sub ∉ [0x01, 0x02, 0x03, 0x04, 0x05, 0x08, 0x11, 0x13, 0x1E] →
      (whole → exec (.decode 3 p) s = unrecognized) ∧
      (6 ≤ s.session.cfg.capacity → exec (.inSubOther p) s = unrecognized)) ∧
    (∀ channel : Byte, channel ≠ 0 → channel ≠ 2 → channel ≠ 3 →
      (whole → exec (.decode channel p) s = present) ∧ exec (.inChOther channel p) s = present)

/-- R184, R185: a recognised kind of whose payload less is retained than its action needs is `Incomplete`, and no state
is written; a payload of at most CAPACITY bytes is retained whole, and `decode` of it is `Incomplete` too. -/
def Obligations.ShortPayloadsAreIncomplete : Prop :=
  ∀ (s : State) (channel : Byte) (p : Bytes) (r : InRow), configWf s.session.cfg = true →
    classify channel p = some r →
    let retained := p.take s.session.cfg.capacity
    (r = .cmdr ∧ (retained.length < 3 ∨ (retained[2]? = some 7 ∧ retained.length < 6))) ∨
    (r = .subOther ∧ retained.length < 6) ∨
    (r ∈ [InRow.accel, .gyro, .mag, .linAccel, .rotVec, .gameRotVec, .steps] ∧ retained.length < 15) ∨
    (r = .stability ∧ retained.length < 10) ∨ (r = .activity ∧ retained.length < 20) →
    exec (r.instr channel p) s = .next (s.after (.decoded .incomplete) s.session (raise .incomplete s.bus)) ∧
    (p.length ≤ s.session.cfg.capacity →
      exec (.decode channel p) s = .next (s.after (.decoded .incomplete) s.session (raise .incomplete s.bus)))

/-- R186: a decode writes exactly the state its successful action names, one slot or the handshake flag, or nothing. -/
def Obligations.DecodeWritesOneSlotOrNothing : Prop :=
  ∀ (s t : State) (channel : Byte) (p : Bytes), exec (.decode channel p) s = .next t →
    ∃ o, t.returned = .decoded o ∧ t.bus = recordOutcome o s.bus ∧
      match o with
      | .report k => wroteSlot k s.session t.session
      | .handshakeAck => t.session = { s.session with handshakeComplete := true }
      | .commandAck c =>
        if c = 7 then ∃ r, t.session = { s.session with calib := some r } else t.session = s.session
      | .dataPresent => t.session = s.session
      | .unrecognizedReport => t.session = s.session
      | .incomplete => t.session = s.session

/-- R185: a packet is decoded on its retained prefix of CAPACITY bytes, whatever row its whole payload matches; and with
any two capacities of 20 or more the outcome and what it writes are the same, so that overflow never changes it. -/
def Obligations.OverflowNeverChangesAnOutcome : Prop :=
  ∀ (s : State) (channel : Byte) (p : Bytes) (r : InRow), configWf s.session.cfg = true → classify channel p = some r →
    exec (.decode channel (p.take s.session.cfg.capacity)) s = exec (r.instr channel p) s ∧
    (20 ≤ s.session.cfg.capacity → ∀ (c : Nat) (t : State), 20 ≤ c → exec (r.instr channel p) s = .next t →
      exec (r.instr channel p)
          { s with session := { s.session with cfg := { s.session.cfg with capacity := c } } } =
        .next { t with session := { t.session with cfg := { t.session.cfg with capacity := c } } })

/-! ### Encoder, framer, sequencer -/

/-- R200 to R203, R206: the builders return channel and payload byte by byte, change nothing and issue no transaction;
an interval whose microseconds do not fit 32 bits is refused. -/
def Obligations.BuildersReturnTheirPayloads : Prop :=
  ∀ s : State, configWf s.session.cfg = true →
    (∀ (r : Byte) (ms : Nat) (c : Word32), ms ≤ 4294967 →
      exec (.buildSetFeature r ms c) s = .next (s.after (.built 2
        [0xFD, r, 0, 0, 0,
         BitVec.ofNat 8 (ms * 1000), BitVec.ofNat 8 (ms * 1000 / 2 ^ 8), BitVec.ofNat 8 (ms * 1000 / 2 ^ 16),
         BitVec.ofNat 8 (ms * 1000 / 2 ^ 24), 0, 0, 0, 0,
         BitVec.ofNat 8 c.toNat, BitVec.ofNat 8 (c.toNat / 2 ^ 8), BitVec.ofNat 8 (c.toNat / 2 ^ 16),
         BitVec.ofNat 8 (c.toNat / 2 ^ 24)]) s.session s.bus)) ∧
    (∀ (r : Byte) (ms : Nat) (c : Word32), 4294967 < ms →
      exec (.buildSetFeature r ms c) s = .refused .intervalTooLong) ∧
    exec .buildSoftReset s = .next (s.after (.built 1 [0x01]) s.session s.bus) ∧
    exec .buildProductIdRequest s = .next (s.after (.built 2 [0xF9, 0x00]) s.session s.bus)

/-- R112 part B: an outbound row writes its packet, stamped with its channel's number, in one transaction; the number
is spent whatever the answer (R152). What an outbound row means as an operation is the model's reading (log 13). -/
def Obligations.OutboundRowsSendTheirPackets : Prop :=
  ∀ (s : State) (a : Answer) (rest : List Answer), configWf s.session.cfg = true → s.bus.answers = a :: rest →
    (∀ (rr : Byte) (micros c : Word32),
      exec (.outSetf rr micros c) s = .next (s.after (.sent (writeResult a))
        { s.session with seq := s.session.seq.set 2 (s.session.seq[2] + 1) }
        (s.bus.advance 1 (writeEvents (setFeatureImage s.session.seq[2] rr micros c) a)))) ∧
    exec .outSrst s = .next (s.after (.sent (writeResult a))
      { s.session with seq := s.session.seq.set 1 (s.session.seq[1] + 1) }
      (s.bus.advance 1 (writeEvents (softResetImage s.session.seq[1]) a))) ∧
    exec .outPidq s = .next (s.after (.sent (writeResult a))
      { s.session with seq := s.session.seq.set 2 (s.session.seq[2] + 1) }
      (s.bus.advance 1 (writeEvents (productIdImage s.session.seq[2]) a)))

/-- R130, R131: `frame` puts the 4 header bytes before the payload, the flag of the length field clear; a payload over
32763 bytes is refused. -/
def Obligations.FrameBuildsHeaderAndPayload : Prop :=
  ∀ (s : State) (channel sequence : Byte) (p : Bytes), configWf s.session.cfg = true →
    (p.length ≤ 32763 →
      exec (.frame channel sequence p) s = .next (s.after (.bytes
        ([BitVec.ofNat 8 (p.length + 4), BitVec.ofNat 8 ((p.length + 4) / 256), channel, sequence] ++ p))
        s.session s.bus) ∧
      (BitVec.ofNat 8 ((p.length + 4) / 256)).getLsbD 7 = false ∧
      (BitVec.ofNat 8 (p.length + 4)).toNat + 256 * (BitVec.ofNat 8 ((p.length + 4) / 256)).toNat = p.length + 4) ∧
    (32763 < p.length → exec (.frame channel sequence p) s = .refused .payloadTooLong)

/-- R132, R133: `send` stamps, frames and writes once; the number advances whatever the answer, and a failed write
raises `TransportError`; a channel over 5, a payload that `frame` refuses and a frame over CEILING are refused. -/
def Obligations.SendStampsFramesAndWrites : Prop :=
  ∀ (s : State) (channel : Byte) (p : Bytes), configWf s.session.cfg = true →
    (∀ (hc : channel.toNat < nchan) (a : Answer) (rest : List Answer),
      p.length + 4 ≤ s.session.cfg.ceiling → s.bus.answers = a :: rest →
      exec (.send channel p) s = .next (s.after (.sent (writeResult a))
        { s.session with seq := s.session.seq.set channel.toNat (s.session.seq[channel.toNat] + 1) }
        (s.bus.advance 1 (writeEvents ([BitVec.ofNat 8 (p.length + 4), BitVec.ofNat 8 ((p.length + 4) / 256), channel,
          s.session.seq[channel.toNat]] ++ p) a)))) ∧
    (nchan ≤ channel.toNat → exec (.send channel p) s = .refused .noSuchChannel) ∧
    (channel.toNat < nchan → 32763 < p.length → exec (.send channel p) s = .refused .payloadTooLong) ∧
    (channel.toNat < nchan → p.length ≤ 32763 → s.session.cfg.ceiling < p.length + 4 →
      exec (.send channel p) s = .refused .frameOverCeiling)

/-- R135: a probe whose low 15 length bits are 4 or less ends the deframe with "no data" after that one
transaction; a packet that a deframe delivers has at least one payload byte. -/
def Obligations.DeframeFindsNoData : Prop :=
  ∀ s : State, configWf s.session.cfg = true →
    (∀ (probe : Bytes) (rest : List Answer), s.bus.answers = .ok probe :: rest → emptyProbe probe = true →
      exec .deframe s = .next (s.after (.deframed .noData) s.session
        (s.bus.advance 1 [.read 4 (some probe), .raised .emptyPacket]))) ∧
    (∀ t channel sequence payload overflow, exec .deframe s = .next t → t.inProgress = none →
      t.returned = .deframed (.packet channel sequence payload overflow) → 1 ≤ payload.length)

/-- R140: a failed probe gives `TransportError`, a failed chunk read gives `Truncated`; the deframe stops there, drops
what it gathered, and changes nothing of the session. -/
def Obligations.DeframeReportsTransportFailures : Prop :=
  ∀ s : State, configWf s.session.cfg = true →
    (∀ (a : Answer) (rest : List Answer), s.bus.answers = a :: rest → readResult 4 a = none →
      exec .deframe s = .next (s.after (.deframed .transportError) s.session
        (s.bus.advance 1 [.read 4 none, .raised .transportError]))) ∧
    (∀ (h : Header) (pieces : List (Bytes × Bytes)) (bad : Answer) (rest : List Answer),
      s.bus.answers = .ok h.bytes :: (pieceAnswers pieces ++ bad :: rest) →
      fullChunks s.session.cfg.ceiling pieces = true →
      pieces.length * (s.session.cfg.ceiling - 4) + 4 < h.length.toNat →
      let k := min (h.length.toNat - 4 - pieces.length * (s.session.cfg.ceiling - 4)) (s.session.cfg.ceiling - 4)
      readResult (k + 4) bad = none →
      exec .deframe s = .next (s.after (.deframed .truncated) s.session
        (s.bus.advance (pieces.length + 2)
          (.read 4 (some h.bytes) :: (pieceEvents pieces ++ [.read (k + 4) none, .raised .truncated])))))

/-- R137, R138, R139: a deframe whose chunks arrive returns the first CAPACITY bytes of the payload in
arrival order, with the channel and sequence of the probe; it has issued 1 + ceil(L / (CEILING - 4)) reads of the
sizes it chose, and raised `BufferOverflow` exactly when L exceeds CAPACITY. -/
def Obligations.DeframeReassemblesItsPacket : Prop :=
  ∀ (s : State) (h : Header) (pieces : List (Bytes × Bytes)) (p : Bytes) (rest : List Answer),
    configWf s.session.cfg = true → 1 ≤ p.length → h.length.toNat = p.length + 4 →
    deliversInChunks s.session.cfg.ceiling pieces p = true →
    let result := Result.deframed (.packet h.channel h.sequence (p.take s.session.cfg.capacity)
      (decide (s.session.cfg.capacity < p.length)))
    let lost := if s.session.cfg.capacity < p.length then [Event.raised .bufferOverflow] else []
    pieces.length = (p.length + (s.session.cfg.ceiling - 4) - 1) / (s.session.cfg.ceiling - 4) ∧
    (s.bus.answers = .ok h.bytes :: (pieceAnswers pieces ++ rest) →
      exec .deframe s = .next (s.after result s.session
        (s.bus.advance (pieces.length + 1) (.read 4 (some h.bytes) :: (pieceEvents pieces ++ lost)))))

/-- A header row goes on from its header as a deframe goes on from its probe: no data where the low 15 length bits are 4
or less, else the payload that its chunks deliver, cut at CAPACITY; a failed chunk read gives `Truncated` (R140). That a
header is executed so is the model's choice (log 14). -/
def Obligations.HeaderRowsReadTheirChunks : Prop :=
  ∀ (s : State) (h : Header), configWf s.session.cfg = true →
    (h.length.toNat ≤ 4 →
      exec (.header h) s = .next (s.after (.deframed .noData) s.session (s.bus.advance 0 [.raised .emptyPacket]))) ∧
    (∀ (pieces : List (Bytes × Bytes)) (p : Bytes) (rest : List Answer),
      1 ≤ p.length → h.length.toNat = p.length + 4 → deliversInChunks s.session.cfg.ceiling pieces p = true →
      s.bus.answers = pieceAnswers pieces ++ rest →
      exec (.header h) s = .next (s.after
        (.deframed (.packet h.channel h.sequence (p.take s.session.cfg.capacity)
          (decide (s.session.cfg.capacity < p.length)))) s.session
        (s.bus.advance pieces.length (pieceEvents pieces ++
          if s.session.cfg.capacity < p.length then [Event.raised .bufferOverflow] else [])))) ∧
    ∀ (pieces : List (Bytes × Bytes)) (bad : Answer) (rest : List Answer),
      s.bus.answers = pieceAnswers pieces ++ bad :: rest → fullChunks s.session.cfg.ceiling pieces = true →
      pieces.length * (s.session.cfg.ceiling - 4) + 4 < h.length.toNat →
      let k := min (h.length.toNat - 4 - pieces.length * (s.session.cfg.ceiling - 4)) (s.session.cfg.ceiling - 4)
      readResult (k + 4) bad = none →
      exec (.header h) s = .next (s.after (.deframed .truncated) s.session
        (s.bus.advance (pieces.length + 1) (pieceEvents pieces ++ [.read (k + 4) none, .raised .truncated])))

/-- R143: what `frame` builds, answered as the probe and in chunks with any 4 bytes before each, is deframed to the same
channel, sequence and payload; in one chunk the frame itself may be the answer; an empty payload is read as "no data". -/
def Obligations.FrameDeframeRoundTrip : Prop :=
  ∀ (s u : State) (channel sequence : Byte) (p f : Bytes) (rest : List Answer), configWf s.session.cfg = true →
    exec (.frame channel sequence p) u = .next { u with inProgress := none, returned := .bytes f } →
    (1 ≤ p.length → p.length ≤ s.session.cfg.capacity →
      (∀ pieces, deliversInChunks s.session.cfg.ceiling pieces p = true →
        s.bus.answers = .ok (f.take 4) :: (pieceAnswers pieces ++ rest) →
        exec .deframe s = .next (s.after (.deframed (.packet channel sequence p false)) s.session
          (s.bus.advance (pieces.length + 1) (.read 4 (some (f.take 4)) :: pieceEvents pieces)))) ∧
      (p.length ≤ s.session.cfg.ceiling - 4 → s.bus.answers = .ok (f.take 4) :: .ok f :: rest →
        exec .deframe s = .next (s.after (.deframed (.packet channel sequence p false)) s.session
          (s.bus.advance 2 [.read 4 (some (f.take 4)), .read f.length (some f)])))) ∧
    (p = [] → s.bus.answers = .ok (f.take 4) :: rest →
      exec .deframe s = .next (s.after (.deframed .noData) s.session
        (s.bus.advance 1 [.read 4 (some (f.take 4)), .raised .emptyPacket])))

/-- R136: the continuation flag of a header selects nothing; and after its probe a deframe is what its header makes of
it, so that no deframe depends on the flag. That a header is executed as the rest of a deframe is the model's choice
(log 14). -/
def Obligations.ContinuationFlagIsIgnored : Prop :=
  ∀ (s : State) (h : Header),
    exec (.header { h with continuation := !h.continuation }) s = exec (.header h) s ∧
    ∀ (rest : List Answer) (t : State), s.bus.answers = .ok h.bytes :: rest →
      exec (.header h) { s with bus := s.bus.advance 1 [.read 4 (some h.bytes)] } = .next t → t.inProgress = none →
      exec .deframe s = .next t

/-- R150, R157: `nextSequence` returns the counter of its channel and then increments it modulo 256; the other five are
not changed; a channel over 5 is refused. -/
def Obligations.NextSequenceCounts : Prop :=
  ∀ (s : State) (channel : Byte), configWf s.session.cfg = true →
    (∀ hc : channel.toNat < nchan, ∃ t, exec (.nextSequence channel) s = .next t ∧
      t = s.after (.sequence s.session.seq[channel.toNat]) { s.session with seq := t.session.seq } s.bus ∧
      (t.session.seq[channel.toNat]).toNat = (s.session.seq[channel.toNat].toNat + 1) % 256 ∧
      ∀ d (hd : d < nchan), d ≠ channel.toNat → t.session.seq[d] = s.session.seq[d]) ∧
    (nchan ≤ channel.toNat → exec (.nextSequence channel) s = .refused .noSuchChannel)

/-- R151: from a counter at 0, successive calls on one channel return 0, 1, ..., 255 and then 0 again, and after 256
calls the counter is at 0. -/
def Obligations.NextSequenceWraps : Prop :=
  ∀ (s : State) (channel : Byte) (hc : channel.toNat < nchan), configWf s.session.cfg = true →
    s.session.seq[channel.toNat] = 0 →
    (∀ k, ∃ t, callTimes (k + 1) (.nextSequence channel) s = .next t ∧
      t.returned = .sequence (BitVec.ofNat 8 (k % 256)) ∧
      t.session.seq[channel.toNat] = BitVec.ofNat 8 ((k + 1) % 256)) ∧
    ∃ t, callTimes 256 (.nextSequence channel) s = .next t ∧ t.returned = .sequence 255 ∧
      t.session.seq[channel.toNat] = 0

/-- R204, R155: the operations of session control write to the bus only the three outbound packets, each on its own
channel, and the counters of the channels that carry none of them stay 0. That `send` and `nextSequence` can also be
called alone, with any channel and payload, is the model's choice (log 10); the statement is about session control. -/
def Obligations.SessionSendsOnlyThreePackets : Prop :=
  ∀ (i : Instr) (s t : State), isSessionOperation i = true → exec i s = .next t →
    (t.inProgress = none → ∃ events, t.bus.history = s.bus.history ++ events ∧
      ∀ bytes ok, .write bytes ok ∈ events → isOutboundPacket bytes) ∧
    (∀ f, t.inProgress = some f →
      (∀ bytes ok, .write bytes ok ∈ f.events → isOutboundPacket bytes) ∧
      ∀ bytes, f.awaiting = .write bytes → isOutboundPacket bytes) ∧
    (s.session.seq[0] = 0 → t.session.seq[0] = 0) ∧ (s.session.seq[3] = 0 → t.session.seq[3] = 0) ∧
    (s.session.seq[4] = 0 → t.session.seq[4] = 0) ∧ (s.session.seq[5] = 0 → t.session.seq[5] = 0)

/-! ### The converter -/

/-- R210, R211, R212: in its domain `dequantize` gives a finite binary32 that equals raw * 2^(-q) with no rounding, +0.0
for 0, else the sign of raw, and never a negative zero. The binary32 parameters are general knowledge (GK1, log 17). -/
def Obligations.DequantizeIsExact : Prop :=
  ∀ (s : State) (raw : Word16) (q : Int), configWf s.session.cfg = true → -112 ≤ q → q ≤ 127 →
    ∃ bits : Word32, exec (.dequantize raw q) s = .next (s.after (.converted bits) s.session s.bus) ∧
      floatFinite bits = true ∧ floatValue bits = (sext16 raw : Rat) * 2 ^ (-q) ∧
      (raw = 0 → bits = 0) ∧ (raw ≠ 0 → bits.getLsbD 31 = decide (sext16 raw < 0)) ∧ bits ≠ 0x80000000

/-- R213: `dequantize` is defined exactly for q in -112..127 and refused outside; a negative q multiplies:
`dequantize(3, -2)` is a binary32 whose value is 12.0. -/
def Obligations.DequantizeDomain : Prop :=
  ∀ (s : State) (raw : Word16) (q : Int), configWf s.session.cfg = true →
    (-112 ≤ q ∧ q ≤ 127 → ∃ t, exec (.dequantize raw q) s = .next t) ∧
    (¬(-112 ≤ q ∧ q ≤ 127) → exec (.dequantize raw q) s = .refused .exponentOutOfRange) ∧
    ∃ bits, exec (.dequantize 3 (-2)) s = .next (s.after (.converted bits) s.session s.bus) ∧ floatValue bits = 12

/-! ### The reset sequence -/

/-- R223: the reset sequence is its steps one after another: the three writes at its start, the soft-reset packet, the
zeroing of the table where it is configured, the drain, the product-id request; it is abandoned at the first that
fails. -/
def Obligations.ResetSequenceComposes : Prop :=
  ∀ s t1 : State,
    exec (.send 1 [0x01]) { s with session := { s.session with
      fsm := .resetting, handshakeComplete := false, failCount := 0 } } = .next t1 →
    (t1.returned = .sent false → t1.inProgress = none →
      exec .resetSequence s = .next { t1 with returned := .reset .aborted }) ∧
    (t1.returned = .sent true → t1.inProgress = none → ∀ t2,
      exec .drain { t1 with session := { t1.session with
        seq := if s.session.cfg.seqClearOnSoftReset then #v[0, 0, 0, 0, 0, 0] else t1.session.seq } } = .next t2 →
      t2.inProgress = none →
      (t2.returned = .reset .aborted → exec .resetSequence s = .next t2) ∧
      (t2.returned = .reset .completed → ∀ t3, exec (.send 2 [0xF9, 0x00]) t2 = .next t3 → t3.inProgress = none →
        (t3.returned = .sent false → exec .resetSequence s = .next { t3 with returned := .reset .aborted }) ∧
        (t3.returned = .sent true → exec .resetSequence s =
          .next { t3 with session := { t3.session with fsm := .awaitingHandshake }, returned := .reset .completed })))

/-- On an idle hub: the reset sequence writes the soft reset, probes twice, writes the product-id request and leaves the
session in AwaitingHandshake (the example of R223); `open` in Uninitialized or Resetting and `poll` in Resetting are that
sequence; a drain ends after two empty probes; a poll in AwaitingHandshake or Ready finds no data. -/
def Obligations.OperationsOnIdleHub : Prop :=
  ∀ (s : State) (x y p1 p2 : Bytes) (rest : List Answer), configWf s.session.cfg = true →
    emptyProbe p1 = true → emptyProbe p2 = true →
    let stamped := s.session.seq.set 1 (s.session.seq[1] + 1)
    let table := if s.session.cfg.seqClearOnSoftReset then #v[0, 0, 0, 0, 0, 0] else stamped
    let session : Session := { s.session with
      fsm := .awaitingHandshake, handshakeComplete := false, failCount := 0, seq := table.set 2 (table[2] + 1) }
    let bus := s.bus.advance 4
      [.write (softResetImage s.session.seq[1]) true, .read 4 (some p1), .raised .emptyPacket, .read 4 (some p2),
       .raised .emptyPacket, .write (productIdImage table[2]) true]
    (s.bus.answers = .ok x :: .ok p1 :: .ok p2 :: .ok y :: rest →
      exec .resetSequence s = .next (s.after (.reset .completed) session bus) ∧
      (s.session.fsm = .uninitialized ∨ s.session.fsm = .resetting →
        exec .openSession s = .next (s.after (.host .ok) session bus)) ∧
      (s.session.fsm = .resetting →
        exec .poll s = .next (s.after (.polled .noData .resetCompleted) session bus))) ∧
    (s.bus.answers = .ok p1 :: .ok p2 :: rest →
      exec .drain s = .next (s.after (.reset .completed) s.session
        (s.bus.advance 2 [.read 4 (some p1), .raised .emptyPacket, .read 4 (some p2), .raised .emptyPacket]))) ∧
    (s.bus.answers = .ok p1 :: rest → s.session.fsm = .awaitingHandshake ∨ s.session.fsm = .ready →
      exec .poll s = .next (s.after (.polled .noData .noData) { s.session with failCount := 0 }
        (s.bus.advance 1 [.read 4 (some p1), .raised .emptyPacket])))

/-- R293: what the reset sequence changes and what it keeps: the record, the slots and the configuration stay. With the
soft-reset write failed only its number is spent; with it ok the table is zeroed where that is configured, and then the
product-id request spends a number, unless the drain ended the sequence before it was written. -/
def Obligations.ResetSequenceKeepsAndChanges : Prop :=
  ∀ (s t : State) (a : Answer) (rest : List Answer), s.bus.answers = a :: rest →
    exec .resetSequence s = .next t → t.inProgress = none →
    let stamped := s.session.seq.set 1 (s.session.seq[1] + 1)
    let table := if s.session.cfg.seqClearOnSoftReset then #v[0, 0, 0, 0, 0, 0] else stamped
    let requested := table.set 2 (table[2] + 1)
    t.session = { s.session with
      fsm := t.session.fsm, handshakeComplete := false, failCount := 0, seq := t.session.seq } ∧
    (writeResult a = false →
      t.returned = .reset .aborted ∧ t.session.fsm = .resetting ∧ t.session.seq = stamped) ∧
    (writeResult a = true →
      (t.returned = .reset .completed ∧ t.session.fsm = .awaitingHandshake ∧ t.session.seq = requested) ∨
      (t.returned = .reset .aborted ∧ t.session.fsm = .resetting ∧
        ((t.session.seq = requested ∧ ∃ before, t.bus.history =
            before ++ [.write (productIdImage table[2]) false, .raised .transportError]) ∨
         (t.session.seq = table ∧ ∃ before n c, t.bus.history = before ++ [.read n none, .raised c]))))

/-- R222: `open` in Uninitialized or Resetting is the reset sequence, and returns as it ended; elsewhere it is
refused. -/
def Obligations.OpenRunsTheResetSequence : Prop :=
  ∀ s : State, configWf s.session.cfg = true →
    (s.session.fsm = .awaitingHandshake ∨ s.session.fsm = .ready → exec .openSession s = .refused .notAdmitted) ∧
    (s.session.fsm = .uninitialized ∨ s.session.fsm = .resetting → ∀ t, exec .resetSequence s = .next t →
      t.inProgress = none →
      (t.returned = .reset .completed →
        exec .openSession s = .next { t with returned := .host .ok } ∧ t.session.fsm = .awaitingHandshake) ∧
      (t.returned = .reset .aborted →
        exec .openSession s = .next { t with returned := .host .failed } ∧ t.session.fsm = .resetting))

/-- R224: the drain deframes and discards until two consecutive "no data"; a packet starts the count again, and a
transport failure abandons it; it writes no state. -/
def Obligations.DrainRepeatsDeframe : Prop :=
  ∀ (s t : State) (d : DeframeResult), exec .deframe s = .next t → t.inProgress = none → t.returned = .deframed d →
    t.session = s.session ∧
    (d = .transportError ∨ d = .truncated → exec .drain s = .next { t with returned := .reset .aborted }) ∧
    ((∃ c q p o, d = .packet c q p o) → ∀ u, exec .drain t = .next u → u.inProgress = none →
      exec .drain s = .next u) ∧
    (d = .noData → ∀ (u : State) (e : DeframeResult), exec .deframe t = .next u → u.inProgress = none →
      u.returned = .deframed e →
      (e = .noData → exec .drain s = .next { u with returned := .reset .completed }) ∧
      (e = .transportError ∨ e = .truncated → exec .drain s = .next { u with returned := .reset .aborted }) ∧
      ((∃ c q p o, e = .packet c q p o) → ∀ v, exec .drain u = .next v → v.inProgress = none →
        exec .drain s = .next v))

/-! ### Host operations -/

/-- R221: which host operation is admitted in which state. -/
def Obligations.HostAdmission : Prop :=
  ∀ s : State, configWf s.session.cfg = true →
    (exec .openSession s = .refused .notAdmitted ↔ s.session.fsm = .awaitingHandshake ∨ s.session.fsm = .ready) ∧
    (∀ r ms c, exec (.enable r ms c) s = .refused .notAdmitted ↔ s.session.fsm ≠ .ready) ∧
    (exec .poll s = .refused .notAdmitted ↔ s.session.fsm = .uninitialized)

/-- R266: with a well-formed configuration a host operation that its state admits, with an interval in range, is never
refused: it returns, or it awaits the transport. -/
def Obligations.HostOperationsRunWhenAdmitted : Prop :=
  ∀ s : State, SessionInv s.session →
    (s.session.fsm = .uninitialized ∨ s.session.fsm = .resetting → ∃ t, exec .openSession s = .next t) ∧
    (∀ r ms c, s.session.fsm = .ready → ms ≤ 4294967 → ∃ t, exec (.enable r ms c) s = .next t) ∧
    (s.session.fsm ≠ .uninitialized → ∃ t, exec .poll s = .next t)

/-- R225: `enable` in Ready records the request and sends the set-feature packet; a failed write below the threshold is
absorbed, at the threshold the reset sequence runs and the result is `failed`; outside Ready and over 4294967 ms it is
refused. The record overwrites the entry of the id and no other (R25). -/
def Obligations.EnableRecordsAndSends : Prop :=
  ∀ (s : State) (r : Byte) (ms : Nat) (c : Word32), configWf s.session.cfg = true →
    let entry : ActiveEntry := ⟨r, ms, c⟩
    let sent : Session := { s.session with
      active := activeWrite entry s.session.active, seq := s.session.seq.set 2 (s.session.seq[2] + 1) }
    let bytes := setFeatureImage s.session.seq[2] r (BitVec.ofNat 32 (ms * 1000)) c
    (s.session.fsm = .ready → ms ≤ 4294967 →
      (∀ x rest, s.bus.answers = .ok x :: rest →
        exec (.enable r ms c) s = .next (s.after (.host .ok) { sent with failCount := 0 }
          (s.bus.advance 1 [.write bytes true]))) ∧
      (∀ rest, s.bus.answers = .error :: rest → s.session.failCount + 1 < s.session.cfg.failThreshold →
        exec (.enable r ms c) s = .next (s.after (.host .ok) { sent with failCount := s.session.failCount + 1 }
          (s.bus.advance 1 [.write bytes false, .raised .transportError]))) ∧
      (∀ rest t, s.bus.answers = .error :: rest → s.session.cfg.failThreshold ≤ s.session.failCount + 1 →
        exec .resetSequence { s with
          session := sent, bus := s.bus.advance 1 [.write bytes false, .raised .transportError] } = .next t →
        t.inProgress = none →
        exec (.enable r ms c) s = .next { t with returned := .host .failed })) ∧
    (s.session.fsm ≠ .ready → exec (.enable r ms c) s = .refused .notAdmitted) ∧
    (s.session.fsm = .ready → 4294967 < ms → exec (.enable r ms c) s = .refused .intervalTooLong) ∧
    ∀ id, activeLookup id (activeWrite entry s.session.active) =
      if id = r then some entry else activeLookup id s.session.active

/-- R226, R231: `poll` is refused in Uninitialized; in Resetting it runs the reset sequence again; in AwaitingHandshake
or Ready it is one deframe. There a failure is counted and at the threshold runs the reset sequence; no data clears the
count; a packet is decoded, and a handshake received in AwaitingHandshake makes the session Ready and runs the replay,
whose failures are counted once. -/
def Obligations.PollComposes : Prop :=
  ∀ s : State, configWf s.session.cfg = true →
    (s.session.fsm = .uninitialized → exec .poll s = .refused .notAdmitted) ∧
    (s.session.fsm = .resetting → ∀ t, exec .resetSequence s = .next t → t.inProgress = none →
      (t.returned = .reset .completed → exec .poll s = .next { t with returned := .polled .noData .resetCompleted }) ∧
      (t.returned = .reset .aborted → exec .poll s = .next { t with returned := .polled .failed .resetAborted })) ∧
    ∀ (u : State) (d : DeframeResult), s.session.fsm = .awaitingHandshake ∨ s.session.fsm = .ready →
    exec .deframe s = .next u → u.inProgress = none → u.returned = .deframed d →
    (∀ o, (d = .transportError ∧ o = PollOutcome.transportError) ∨ (d = .truncated ∧ o = .truncated) →
      (s.session.failCount + 1 < s.session.cfg.failThreshold →
        exec .poll s = .next { u with
          session := { u.session with failCount := s.session.failCount + 1 }, returned := .polled .noData o }) ∧
      (s.session.cfg.failThreshold ≤ s.session.failCount + 1 → ∀ v, exec .resetSequence u = .next v →
        v.inProgress = none → exec .poll s = .next { v with returned := .polled .failed o })) ∧
    (d = .noData → exec .poll s = .next { u with
      session := { u.session with failCount := 0 }, returned := .polled .noData .noData }) ∧
    (∀ channel sequence payload overflow, d = .packet channel sequence payload overflow →
      ∀ v o, exec (.decode channel payload) u = .next v → v.returned = .decoded o →
      (o ≠ .handshakeAck ∨ s.session.fsm = .ready →
        exec .poll s = .next { v with
          session := { v.session with failCount := 0 },
          returned := .polled
            (match o with
              | .handshakeAck | .commandAck _ | .report _ => .newData
              | .dataPresent => .dataPresent
              | .unrecognizedReport | .incomplete => .noData) (.decoded o) }) ∧
      (o = .handshakeAck → s.session.fsm = .awaitingHandshake → ∀ w bad,
        exec .replay { v with session := { v.session with fsm := .ready } } = .next w → w.inProgress = none →
        w.returned = .replayed bad →
        (bad = false → exec .poll s = .next { w with
          session := { w.session with failCount := 0 }, returned := .polled .newData (.decoded .handshakeAck) }) ∧
        (bad = true → s.session.failCount + 1 < s.session.cfg.failThreshold → exec .poll s = .next { w with
          session := { w.session with failCount := s.session.failCount + 1 },
          returned := .polled .newData (.decoded .handshakeAck) }) ∧
        (bad = true → s.session.cfg.failThreshold ≤ s.session.failCount + 1 → ∀ x, exec .resetSequence w = .next x →
          x.inProgress = none → exec .poll s = .next { x with
            returned := .polled .failed (.decoded .handshakeAck) })))

/-- R229, R230: an operation without a transport failure clears the count; one with a failure adds one, and at the
threshold the reset sequence runs at once, its own end ignored, which leaves the count at 0 and the session in
AwaitingHandshake or Resetting. -/
def Obligations.AccountCountsAndTrips : Prop :=
  ∀ s : State, configWf s.session.cfg = true →
    exec (.account false) s = .next (s.after (.accounted .normal) { s.session with failCount := 0 } s.bus) ∧
    (s.session.failCount + 1 < s.session.cfg.failThreshold →
      exec (.account true) s = .next (s.after (.accounted .normal)
        { s.session with failCount := s.session.failCount + 1 } s.bus)) ∧
    (s.session.cfg.failThreshold ≤ s.session.failCount + 1 →
      ∀ t, exec .resetSequence s = .next t → t.inProgress = none →
        exec (.account true) s = .next { t with returned := .accounted .tripped } ∧ t.session.failCount = 0 ∧
        (t.session.fsm = .awaitingHandshake ∨ t.session.fsm = .resetting))

/-- R228: the replay sends every recorded request once, in the configured order, going on after a failed write, and
reports whether any failed; only the counter of channel 2 moves, once per entry. The order is `replayEntries`, which
ReplayOrderCoversTheRecord describes; how the parameter is given is the model's choice (log 6). -/
def Obligations.ReplaySendsEveryEntry : Prop :=
  ∀ (s : State) (taken rest : List Answer), configWf s.session.cfg = true →
    (∀ e ∈ s.session.active, e.intervalMillis ≤ 4294967) → s.bus.answers = taken ++ rest →
    taken.length = (replayEntries s.session).length →
    exec .replay s = .next (s.after (.replayed (taken.any (fun a => !writeResult a)))
      { s.session with seq := s.session.seq.set 2 (s.session.seq[2] + BitVec.ofNat 8 taken.length) }
      (s.bus.advance taken.length (replayTrace s.session.seq[2] (replayEntries s.session) taken)))

/-- R228, R6: whatever orders the configuration lists, the entries to be re-sent are those of the record, each once; the
first listed order of just the recorded ids is the order in which they are re-sent; with none listed they are re-sent by
ascending id (how the parameter is given is the model's choice, log 6). -/
def Obligations.ReplayOrderCoversTheRecord : Prop :=
  ∀ s : Session, activeCanonical s.active = true →
    (replayEntries s).Perm s.active ∧
    (∀ (before after : List (List Byte)) (order : List Byte), s.cfg.replayOrders = before ++ order :: after →
      (∀ o ∈ before, ¬ o.Perm (s.active.map (·.reportId))) → order.Perm (s.active.map (·.reportId)) →
      (replayEntries s).map (·.reportId) = order) ∧
    ((∀ o ∈ s.cfg.replayOrders, ¬ o.Perm (s.active.map (·.reportId))) → replayEntries s = s.active ∧
      s.active.Pairwise (fun e f => e.reportId.toNat < f.reportId.toNat))

/-! ### The whole machine -/

/-- R232: between the start and the return of a host operation `S.fsm` makes only the moves of the table; only `open`
leaves Uninitialized, only a poll that decodes a handshake enters Ready, and only a failed operation leaves it. -/
def Obligations.FsmTransitions : Prop :=
  ∀ (i : Instr) (s t : State), isHostOperation i = true → exec i s = .next t → t.inProgress = none →
    fsmMove s.session.fsm t.session.fsm = true ∧
    (s.session.fsm = .uninitialized → i = .openSession) ∧
    (s.session.fsm = .awaitingHandshake → t.session.fsm = .ready →
      i = .poll ∧ t.returned = .polled .newData (.decoded .handshakeAck)) ∧
    (s.session.fsm = .ready → t.session.fsm ≠ .ready →
      t.returned = .host .failed ∨ ∃ o, t.returned = .polled .failed o)

/-- Every step keeps the invariant of the session: a well-formed configuration (R7, R26), the failure count below the
threshold (R23), Ready only with the handshake complete, the record in its one form with intervals in range (R25), and
a quaternion slot whose source is one of the two ids (R32). -/
def Obligations.StepKeepsInvariant : Prop :=
  ∀ s t : State, SessionInv s.session → step s = .next t → SessionInv t.session

/-- The session at power-on meets the invariant, with whatever well-formed configuration it is constructed (R26, R290). -/
def Obligations.ResetMeetsInvariant : Prop :=
  ∀ c : Config, configWf c = true → SessionInv { State.reset.session with cfg := c }

/-- R61 to R65, R70, R75, R82: a step that completes has only appended legal events to the history, each transaction
having taken one answer in order; a step whose operation awaits an answer has changed nothing of the session, the
history, the last result or the actions to come, and its transactions so far met every listed answer; the transport then
lists one answer more, or its result never arrives (R299; log 2, log 19). -/
def Obligations.StepExtendsHistory : Prop :=
  ∀ s t : State, step s = .next t → s.pending ≠ [] →
    (t.inProgress = none → s.bus.grew s.session.cfg.ceiling t.bus ∧ t.pending = s.pending.tail) ∧
    (∀ f, t.inProgress = some f → awaits s.session.cfg.ceiling s.bus f ∧
      t.session = s.session ∧ t.returned = s.returned ∧ t.pending = s.pending ∧ t.bus.history = s.bus.history ∧
      ((∃ a, t.bus.answers = s.bus.answers ++ [a] ∧ t.bus.silent = s.bus.silent) ∨
        (t.bus.answers = s.bus.answers ∧ t.bus.silent = true)))

/-- R38, R26: who may write what. -/
def Obligations.WhoWritesWhat : Prop :=
  ∀ (i : Instr) (s t : State), exec i s = .next t →
    t.session.cfg = s.session.cfg ∧ t.pending = s.pending ∧
    (decodes i = false → sameSlots s.session t.session) ∧
    (decodes i = false → controls i = false → t.session.handshakeComplete = s.session.handshakeComplete) ∧
    (sequences i = false → t.session.seq = s.session.seq) ∧
    (controls i = false → t.session.fsm = s.session.fsm ∧ t.session.failCount = s.session.failCount ∧
      t.session.active = s.session.active)

/-- R75: no operation depends on an answer it has not taken: with further answers listed, one that returned returns the
same, and one that was refused is refused the same. -/
def Obligations.FurtherAnswersChangeNothing : Prop :=
  ∀ (i : Instr) (s : State) (more : List Answer),
    (∀ t, exec i s = .next t → t.inProgress = none → exec i (s.withMore more) = .next (t.withMore more)) ∧
    (∀ r, exec i s = .refused r → exec i (s.withMore more) = .refused r)

/-- R7: a configuration that is not well formed is refused by every operation and by every client read (log 18), and no
other is; an exponent of the radian accuracy that has not been given breaks nothing (log 4). -/
def Obligations.IllFormedConfigurationsAreRefused : Prop :=
  ∀ s : State,
    let illFormed :=
      ¬(21 ≤ s.session.cfg.ceiling ∧ s.session.cfg.ceiling ≤ 32767 ∧ 1 ≤ s.session.cfg.capacity ∧
        1 ≤ s.session.cfg.failThreshold ∧ s.session.cfg.qAccel ≤ 15 ∧ s.session.cfg.qLinAccel ≤ 15 ∧
        s.session.cfg.qGyro ≤ 15 ∧ s.session.cfg.qMag ≤ 15 ∧ s.session.cfg.qRot ≤ 15 ∧
        ∀ q, s.session.cfg.qRotAcc = some q → q ≤ 15)
    (∀ i : Instr, exec i s = .refused .illFormedConfig ↔ illFormed) ∧
    (∀ (p : Port) (rest : List Action), s.pending = .read p :: rest →
      (step s = .refused .illFormedConfig ↔ illFormed))

/-- R299: where a transaction's result never arrives, the operation that awaits it never returns: every further step
leaves the machine as it is, with the session and the actions to come as before the operation. How such a transport is
written down is the model's choice (log 2, log 19). -/
def Obligations.AwaitedResultMayNeverArrive : Prop :=
  ∀ s t : State, s.bus.silent = true → step s = .next t → t.inProgress ≠ none →
    step t = .next t ∧ t.session = s.session ∧ t.bus = s.bus ∧ t.pending = s.pending ∧ t.returned = s.returned
end

