-- ==== Sys2Proof/Laws/State.lean ====
section
/-! SUPPORT. One lemma per field per named update of the state, true by rfl. -/

namespace Sys2Proof.Machine

/-! ### `enterResetting` -/

@[simp] theorem enterResetting_cfg (s : Session) : (enterResetting s).cfg = s.cfg := rfl
@[simp] theorem enterResetting_fsm (s : Session) : (enterResetting s).fsm = .resetting := rfl
@[simp] theorem enterResetting_seq (s : Session) : (enterResetting s).seq = s.seq := rfl
@[simp] theorem enterResetting_failCount (s : Session) : (enterResetting s).failCount = 0 := rfl
@[simp] theorem enterResetting_handshakeComplete (s : Session) : (enterResetting s).handshakeComplete = false := rfl
@[simp] theorem enterResetting_active (s : Session) : (enterResetting s).active = s.active := rfl
@[simp] theorem enterResetting_accel (s : Session) : (enterResetting s).accel = s.accel := rfl
@[simp] theorem enterResetting_linAccel (s : Session) : (enterResetting s).linAccel = s.linAccel := rfl
@[simp] theorem enterResetting_gyro (s : Session) : (enterResetting s).gyro = s.gyro := rfl
@[simp] theorem enterResetting_mag (s : Session) : (enterResetting s).mag = s.mag := rfl
@[simp] theorem enterResetting_quat (s : Session) : (enterResetting s).quat = s.quat := rfl
@[simp] theorem enterResetting_steps (s : Session) : (enterResetting s).steps = s.steps := rfl
@[simp] theorem enterResetting_stability (s : Session) : (enterResetting s).stability = s.stability := rfl
@[simp] theorem enterResetting_activity (s : Session) : (enterResetting s).activity = s.activity := rfl
@[simp] theorem enterResetting_calib (s : Session) : (enterResetting s).calib = s.calib := rfl

/-! ### `clearSequence` -/

@[simp] theorem clearSequence_cfg (s : Session) : (clearSequence s).cfg = s.cfg := rfl
@[simp] theorem clearSequence_fsm (s : Session) : (clearSequence s).fsm = s.fsm := rfl
@[simp] theorem clearSequence_seq (s : Session) : (clearSequence s).seq = #v[0, 0, 0, 0, 0, 0] := rfl
@[simp] theorem clearSequence_failCount (s : Session) : (clearSequence s).failCount = s.failCount := rfl
@[simp] theorem clearSequence_handshakeComplete (s : Session) : (clearSequence s).handshakeComplete = s.handshakeComplete := rfl
@[simp] theorem clearSequence_active (s : Session) : (clearSequence s).active = s.active := rfl
@[simp] theorem clearSequence_accel (s : Session) : (clearSequence s).accel = s.accel := rfl
@[simp] theorem clearSequence_linAccel (s : Session) : (clearSequence s).linAccel = s.linAccel := rfl
@[simp] theorem clearSequence_gyro (s : Session) : (clearSequence s).gyro = s.gyro := rfl
@[simp] theorem clearSequence_mag (s : Session) : (clearSequence s).mag = s.mag := rfl
@[simp] theorem clearSequence_quat (s : Session) : (clearSequence s).quat = s.quat := rfl
@[simp] theorem clearSequence_steps (s : Session) : (clearSequence s).steps = s.steps := rfl
@[simp] theorem clearSequence_stability (s : Session) : (clearSequence s).stability = s.stability := rfl
@[simp] theorem clearSequence_activity (s : Session) : (clearSequence s).activity = s.activity := rfl
@[simp] theorem clearSequence_calib (s : Session) : (clearSequence s).calib = s.calib := rfl

/-! ### `raise` -/

@[simp] theorem raise_answers (c : Condition) (b : Bus) : (raise c b).answers = b.answers := rfl
@[simp] theorem raise_nextFree (c : Condition) (b : Bus) : (raise c b).nextFree = b.nextFree := rfl
@[simp] theorem raise_silent (c : Condition) (b : Bus) : (raise c b).silent = b.silent := rfl
@[simp] theorem raise_history (c : Condition) (b : Bus) : (raise c b).history = b.history ++ [.raised c] := rfl

/-! ### `receiveAnswer` -/

@[simp] theorem receiveAnswer_answers (b : Bus) : (receiveAnswer b).answers = b.answers ++ (arrival b).toList := rfl
@[simp] theorem receiveAnswer_nextFree (b : Bus) : (receiveAnswer b).nextFree = b.nextFree + (arrival b).toList.length := rfl
@[simp] theorem receiveAnswer_silent (b : Bus) : (receiveAnswer b).silent = (arrival b).isNone := rfl
@[simp] theorem receiveAnswer_history (b : Bus) : (receiveAnswer b).history = b.history := rfl

@[simp] theorem arrival_of_silent {b : Bus} (h : b.silent = true) : arrival b = none := by simp [arrival, h]

/-- Where no result arrives any more, nothing changes. -/
theorem receiveAnswer_of_silent {b : Bus} (h : b.silent = true) : receiveAnswer b = b := by
  cases b; simp_all [receiveAnswer]

/-- What the transport does when an operation awaits it: one more answer, or silence. -/
theorem receiveAnswer_cases (b : Bus) :
    (∃ a, b.silent = false ∧ receiveAnswer b = { b with answers := b.answers ++ [a], nextFree := b.nextFree + 1 }) ∨
    receiveAnswer b = { b with silent := true } := by
  cases h : b.silent with
  | true => exact .inr (by rw [receiveAnswer_of_silent h, ← h])
  | false =>
    cases ha : arrival b with
    | none => exact .inr (by simp [receiveAnswer, ha])
    | some a => exact .inl ⟨a, rfl, by simp [receiveAnswer, ha]⟩

/-! ### `storePayload` -/

/-- The payload a packet retains: its first CAPACITY bytes (R73). -/
@[simp] theorem storePayload_nil (capacity : Nat) (p : Bytes) : storePayload capacity [] p = p.take capacity := rfl

/-! ### `Bus.advance` -/

@[simp] theorem Bus.advance_answers (b : Bus) (n : Nat) (es : List Event) : (b.advance n es).answers = b.answers.drop n := rfl
@[simp] theorem Bus.advance_nextFree (b : Bus) (n : Nat) (es : List Event) : (b.advance n es).nextFree = b.nextFree := rfl
@[simp] theorem Bus.advance_silent (b : Bus) (n : Nat) (es : List Event) : (b.advance n es).silent = b.silent := rfl
@[simp] theorem Bus.advance_history (b : Bus) (n : Nat) (es : List Event) : (b.advance n es).history = b.history ++ es := rfl

/-! ### `Bus.withMore` -/

@[simp] theorem Bus.withMore_answers (b : Bus) (more : List Answer) : (b.withMore more).answers = b.answers ++ more := rfl
@[simp] theorem Bus.withMore_nextFree (b : Bus) (more : List Answer) : (b.withMore more).nextFree = b.nextFree := rfl
@[simp] theorem Bus.withMore_silent (b : Bus) (more : List Answer) : (b.withMore more).silent = b.silent := rfl
@[simp] theorem Bus.withMore_history (b : Bus) (more : List Answer) : (b.withMore more).history = b.history := rfl

/-! ### `State.after` -/

@[simp] theorem State.after_session (s : State) (r : Result) (u : Session) (b : Bus) : (s.after r u b).session = u := rfl
@[simp] theorem State.after_bus (s : State) (r : Result) (u : Session) (b : Bus) : (s.after r u b).bus = b := rfl
@[simp] theorem State.after_pending (s : State) (r : Result) (u : Session) (b : Bus) : (s.after r u b).pending = s.pending := rfl
@[simp] theorem State.after_inProgress (s : State) (r : Result) (u : Session) (b : Bus) : (s.after r u b).inProgress = none := rfl
@[simp] theorem State.after_returned (s : State) (r : Result) (u : Session) (b : Bus) : (s.after r u b).returned = r := rfl

/-! ### `State.withMore` -/

@[simp] theorem State.withMore_session (s : State) (more : List Answer) : (s.withMore more).session = s.session := rfl
@[simp] theorem State.withMore_bus (s : State) (more : List Answer) : (s.withMore more).bus = s.bus.withMore more := rfl
@[simp] theorem State.withMore_pending (s : State) (more : List Answer) : (s.withMore more).pending = s.pending := rfl
@[simp] theorem State.withMore_inProgress (s : State) (more : List Answer) : (s.withMore more).inProgress = s.inProgress := rfl
@[simp] theorem State.withMore_returned (s : State) (more : List Answer) : (s.withMore more).returned = s.returned := rfl

/-! ### Updates one after another -/

@[simp] theorem raise_advance (c : Condition) (b : Bus) (n : Nat) (es : List Event) :
    raise c (b.advance n es) = b.advance n (es ++ [.raised c]) := by simp [raise, Bus.advance]

@[simp] theorem Bus.advance_advance (b : Bus) (n m : Nat) (es fs : List Event) :
    (b.advance n es).advance m fs = b.advance (n + m) (es ++ fs) := by simp [Bus.advance]

@[simp] theorem Bus.advance_nil (b : Bus) : b.advance 0 [] = b := by simp [Bus.advance]

theorem raise_eq_advance (c : Condition) (b : Bus) : raise c b = b.advance 0 [.raised c] := by
  simp [raise, Bus.advance]

@[simp] theorem raise_withMore (c : Condition) (b : Bus) (more : List Answer) :
    raise c (b.withMore more) = (raise c b).withMore more := rfl

end Sys2Proof.Machine
end

