-- ==== Sys2Proof/Laws/Active.lean ====
section
/-! SUPPORT. The active-feature record: its one canonical form is kept by every write, and a write changes one entry
(R25). -/

namespace Sys2Proof.Machine

/-- The canonical form as a pairwise fact. -/
theorem activeCanonical_iff (l : List ActiveEntry) :
    activeCanonical l = true ↔ l.Pairwise (fun e f => e.reportId.toNat < f.reportId.toNat) := by
  induction l with
  | nil => simp [activeCanonical]
  | cons e rest ih =>
    cases rest with
    | nil => simp [activeCanonical]
    | cons f rest =>
      rw [activeCanonical, Bool.and_eq_true, ih, decide_eq_true_eq]
      constructor
      · rintro ⟨h, k⟩
        refine List.pairwise_cons.2 ⟨fun g hg => ?_, k⟩
        rcases List.mem_cons.1 hg with rfl | hg
        · exact h
        · exact Nat.lt_trans h ((List.pairwise_cons.1 k).1 g hg)
      · intro h
        obtain ⟨h, k⟩ := List.pairwise_cons.1 h
        exact ⟨h f (by simp), k⟩

theorem mem_activeWrite {e g : ActiveEntry} {l : List ActiveEntry} (h : g ∈ activeWrite e l) : g = e ∨ g ∈ l := by
  induction l with
  | nil => simpa [activeWrite] using h
  | cons f rest ih =>
    unfold activeWrite at h
    split at h
    · simpa using h
    split at h
    · simp only [List.mem_cons] at h ⊢
      tauto
    · simp only [List.mem_cons] at h ⊢
      rcases h with h | h
      · tauto
      · rcases ih h with h | h <;> tauto

/-- A write keeps the canonical form. -/
theorem activeWrite_canonical (e : ActiveEntry) {l : List ActiveEntry} (h : activeCanonical l = true) :
    activeCanonical (activeWrite e l) = true := by
  rw [activeCanonical_iff] at h ⊢
  induction l with
  | nil => simp [activeWrite]
  | cons f rest ih =>
    obtain ⟨hf, hr⟩ := List.pairwise_cons.1 h
    unfold activeWrite
    split
    · rename_i hlt
      refine List.pairwise_cons.2 ⟨?_, h⟩
      simp only [List.mem_cons]
      rintro g (rfl | hg)
      · exact hlt
      · exact Nat.lt_trans hlt (hf g hg)
    split
    · rename_i heq
      exact List.pairwise_cons.2 ⟨fun g hg => by rw [heq]; exact hf g hg, hr⟩
    · rename_i hle hne
      refine List.pairwise_cons.2 ⟨fun g hg => ?_, ih hr⟩
      rcases mem_activeWrite hg with rfl | hg
      · have : g.reportId.toNat ≠ f.reportId.toNat := fun k => hne (BitVec.eq_of_toNat_eq k)
        omega
      · exact hf g hg

/-- What a lookup finds has the id it was asked for. -/
theorem activeLookup_reportId {r : Byte} {l : List ActiveEntry} {e : ActiveEntry} (h : activeLookup r l = some e) :
    e.reportId = r := by
  induction l with
  | nil => cases h
  | cons f rest ih =>
    unfold activeLookup at h
    split at h
    · rename_i hf; cases h; exact hf
    · exact ih h

/-- What a lookup finds is an entry of the record. -/
theorem activeLookup_mem {r : Byte} {l : List ActiveEntry} {e : ActiveEntry} (h : activeLookup r l = some e) :
    e ∈ l := by
  induction l with
  | nil => cases h
  | cons f rest ih =>
    unfold activeLookup at h
    split at h
    · cases h; simp
    · exact List.mem_cons_of_mem _ (ih h)

theorem activeLookup_of_lt {r : Byte} {l : List ActiveEntry} (h : ∀ e ∈ l, r.toNat < e.reportId.toNat) :
    activeLookup r l = none := by
  induction l with
  | nil => rfl
  | cons f rest ih =>
    have hf := h f (by simp)
    rw [activeLookup, if_neg (fun k => by rw [k] at hf; omega), ih fun e he => h e (List.mem_cons_of_mem _ he)]

/-- Each entry of a canonical record is found under its id. -/
theorem activeLookup_self {l : List ActiveEntry} {e : ActiveEntry} (h : activeCanonical l = true) (he : e ∈ l) :
    activeLookup e.reportId l = some e := by
  rw [activeCanonical_iff] at h
  induction l with
  | nil => cases he
  | cons f rest ih =>
    obtain ⟨hf, hr⟩ := List.pairwise_cons.1 h
    rcases List.mem_cons.1 he with rfl | he
    · simp [activeLookup]
    · have := hf e he
      rw [activeLookup, if_neg (fun k => by rw [k] at this; omega), ih hr he]

/-- The entries of a canonical record are told apart by their ids. -/
theorem activeCanonical_nodup {l : List ActiveEntry} (h : activeCanonical l = true) :
    (l.map (·.reportId)).Nodup := by
  rw [activeCanonical_iff] at h
  refine List.pairwise_map.2 (h.imp fun {a b} hab k => ?_)
  have : a.reportId = b.reportId := k
  rw [this] at hab
  omega

/-- Every entry to be re-sent is one of the record. -/
theorem replayEntries_mem {s : Session} {e : ActiveEntry} (h : e ∈ replayEntries s) : e ∈ s.active := by
  simp only [replayEntries, List.mem_filterMap] at h
  obtain ⟨r, -, h⟩ := h
  exact activeLookup_mem h

end Sys2Proof.Machine
end

