-- ==== Sys2Proof/Laws/Run.lean ====
section
/-! SUPPORT. Runs over the transport's answers: one run after another, what a run may do to the transport, how it
meets further answers, and how an outcome comes from it. -/

namespace Sys2Proof.Machine

variable {α β : Type}

@[simp] theorem Run.bind_done (a : α) (f : α → Run β) : (Run.done a).bind f = f a := rfl

@[simp] theorem Run.bind_waits (w : InFlight) (f : α → Run β) : (Run.waits w).bind f = .waits w := rfl

@[simp] theorem Run.bind_refused (r : Refusal) (f : α → Run β) : (Run.refused r).bind f = .refused r := rfl

theorem Run.bind_eq_done {x : Run α} {f : α → Run β} {b : β} :
    x.bind f = .done b ↔ ∃ a, x = .done a ∧ f a = .done b := by cases x <;> simp

theorem Run.bind_eq_refused {x : Run α} {f : α → Run β} {r : Refusal} :
    x.bind f = .refused r ↔ x = .refused r ∨ ∃ a, x = .done a ∧ f a = .refused r := by cases x <;> simp

theorem Run.bind_assoc {γ : Type} (x : Run α) (f : α → Run β) (g : β → Run γ) :
    (x.bind f).bind g = x.bind fun a => (f a).bind g := by cases x <;> rfl

/-! ### The transport -/

theorem transactionCount_nil : transactionCount [] = 0 := rfl

theorem transactionCount_append (es fs : List Event) :
    transactionCount (es ++ fs) = transactionCount es + transactionCount fs := by simp [transactionCount]

theorem Bus.grew_refl (ceiling : Nat) (b : Bus) : b.grew ceiling b :=
  ⟨[], by simp [Bus.grewBy, transactionCount]⟩

theorem Bus.grew_trans {ceiling : Nat} {b c d : Bus} (h : b.grew ceiling c) (k : c.grew ceiling d) :
    b.grew ceiling d := by
  obtain ⟨es, hl, hn, rfl⟩ := h
  obtain ⟨fs, kl, kn, rfl⟩ := k
  refine ⟨es ++ fs, ?_, ?_, ?_⟩
  · simpa [or_imp, forall_and] using ⟨hl, kl⟩
  · simp at kn; rw [transactionCount_append]; omega
  · rw [transactionCount_append, Bus.advance_advance]

theorem grew_raise (ceiling : Nat) (c : Condition) (b : Bus) : b.grew ceiling (raise c b) :=
  ⟨[.raised c], by simp [Bus.grewBy, transactionCount, isTransaction, legalEvent, raise_eq_advance]⟩

/-- What a run has done to the transport it started from: legal events alone when it is done; when it waits, it has
met every listed answer and awaits a legal transaction. -/
def Run.onBus (ceiling : Nat) (b : Bus) (bus : α → Bus) : Run α → Prop
  | .done a => b.grew ceiling (bus a)
  | .waits f => ∃ es, f.events = b.history ++ es ∧ awaits ceiling b { f with events := es }
  | .refused _ => True

theorem Run.onBus_waits_trans {ceiling : Nat} {b c : Bus} {f : InFlight} (h : b.grew ceiling c)
    (k : ∃ es, f.events = c.history ++ es ∧ awaits ceiling c { f with events := es }) :
    ∃ es, f.events = b.history ++ es ∧ awaits ceiling b { f with events := es } := by
  obtain ⟨es, hl, hn, rfl⟩ := h
  obtain ⟨fs, hf, kl, kn, kt⟩ := k
  refine ⟨es ++ fs, by simpa using hf, ?_, ?_, kt⟩
  · simp only [List.mem_append]
    rintro e (he | he)
    · exact hl e he
    · exact kl e he
  · simp only [Bus.advance_answers, List.length_drop] at kn
    rw [transactionCount_append, kn]; omega

theorem Run.onBus_bind {ceiling : Nat} {b : Bus} {p : α → Bus} {q : β → Bus} {x : Run α} {f : α → Run β}
    (h : x.onBus ceiling b p) (k : ∀ a, x = .done a → (f a).onBus ceiling (p a) q) :
    (x.bind f).onBus ceiling b q := by
  cases x with
  | waits w => exact h
  | refused r => trivial
  | done a =>
    have k := k a rfl
    rw [Run.bind_done]
    cases hfa : f a with
    | refused r => trivial
    | done c => rw [hfa] at k; exact Bus.grew_trans h k
    | waits w => rw [hfa] at k; exact Run.onBus_waits_trans h k

theorem Run.onBus_done {ceiling : Nat} {b c : Bus} {p : α → Bus} {a : α} (h : b.grew ceiling c) (e : p a = c) :
    (Run.done a).onBus ceiling b p := by subst e; exact h

/-! ### Further answers -/

/-- A run with more answers listed ends as the run without them did, wherever that one came to an end. -/
def Run.carries (lift : α → α) (x y : Run α) : Prop :=
  (∀ a, x = .done a → y = .done (lift a)) ∧ ∀ r, x = .refused r → y = .refused r

theorem Run.carries_bind {f : α → α} {g : β → β} {x x' : Run α} {k k' : α → Run β} (h : x.carries f x')
    (hk : ∀ a, x = .done a → (k a).carries g (k' (f a))) : (x.bind k).carries g (x'.bind k') := by
  cases x with
  | done a =>
    rw [h.1 a rfl]
    exact hk a rfl
  | waits w => exact ⟨by simp, by simp⟩
  | refused r =>
    rw [h.2 r rfl]
    exact ⟨by simp, by simp⟩

theorem Run.carries_bind_same {g : β → β} (x : Run α) {k k' : α → Run β}
    (hk : ∀ a, x = .done a → (k a).carries g (k' a)) : (x.bind k).carries g (x.bind k') := by
  cases x with
  | done a => exact hk a rfl
  | waits w => exact ⟨by simp, by simp⟩
  | refused r => exact ⟨by simp, by simp⟩

theorem Run.carries_ite {f : α → α} {c : Prop} [Decidable c] {x x' y y' : Run α} (h : c → x.carries f x')
    (k : ¬c → y.carries f y') : (if c then x else y).carries f (if c then x' else y') := by
  by_cases hc : c
  · simpa only [hc, if_true] using h hc
  · simpa only [hc, if_false] using k hc

theorem Run.carries_done {f : α → α} {a b : α} (h : b = f a) : (Run.done a).carries f (.done b) :=
  ⟨by rintro _ ⟨⟩; rw [h], by simp⟩

theorem Run.carries_refused {f : α → α} (r : Refusal) : (Run.refused r : Run α).carries f (.refused r) :=
  ⟨by simp, by simp⟩

/-! ### Outcomes -/

theorem perform_done {s : State} {operation : Work → Run (Result × Work)} {r : Result × Work}
    (hc : configWf s.session.cfg = true) (h : operation ⟨s.session, s.bus⟩ = .done r) :
    perform s operation = .next (s.after r.1 r.2.session r.2.bus) := by
  simp [perform, hc, h, State.after]

theorem perform_refused {s : State} {operation : Work → Run (Result × Work)} {r : Refusal}
    (hc : configWf s.session.cfg = true) (h : operation ⟨s.session, s.bus⟩ = .refused r) :
    perform s operation = .refused r := by simp [perform, hc, h]

theorem perform_illFormed {s : State} (operation : Work → Run (Result × Work))
    (hc : configWf s.session.cfg = false) : perform s operation = .refused .illFormedConfig := by simp [perform, hc]

/-- All that a performed operation can answer with a next state. -/
theorem perform_next {s t : State} {operation : Work → Run (Result × Work)} :
    perform s operation = .next t ↔ configWf s.session.cfg = true ∧
      ((∃ r, operation ⟨s.session, s.bus⟩ = .done r ∧ t = s.after r.1 r.2.session r.2.bus) ∨
       (∃ f, operation ⟨s.session, s.bus⟩ = .waits f ∧
         t = { s with bus := receiveAnswer s.bus,
                      inProgress := some { f with events := f.events.drop s.bus.history.length } })) := by
  unfold perform
  split
  · rename_i hc
    split <;> rename_i h <;> simp [h, hc, State.after, eq_comm]
  · rename_i hc
    simp [hc]

end Sys2Proof.Machine
end

