-- ==== Sys2Proof/Laws/Framer.lean ====
section
/-! SUPPORT. What the two transport primitives, the sequencer, the framer and the deframer can do. -/

namespace Sys2Proof.Machine

/-! ### The transport primitives -/

theorem busWrite_listed {b : Bus} {a : Answer} {rest : List Answer} (bytes : Bytes) (h : b.answers = a :: rest) :
    busWrite bytes b = .done (writeResult a, b.advance 1 [.write bytes (writeResult a)]) := by
  simp [busWrite, h, Bus.advance]

theorem busRead_listed {b : Bus} {a : Answer} {rest : List Answer} (n : Nat) (h : b.answers = a :: rest) :
    busRead n b = .done (readResult n a, b.advance 1 [.read n (readResult n a)]) := by
  simp [busRead, h, Bus.advance]

theorem busRead_unlisted {b : Bus} (n : Nat) (h : b.answers = []) :
    busRead n b = .waits ⟨b.history, .read n⟩ := by simp [busRead, h]

theorem busWrite_unlisted {b : Bus} (bytes : Bytes) (h : b.answers = []) :
    busWrite bytes b = .waits ⟨b.history, .write bytes⟩ := by simp [busWrite, h]

theorem readResult_length {n : Nat} {a : Answer} {bytes : Bytes} (h : readResult n a = some bytes) :
    bytes.length = n := by
  unfold readResult at h
  split at h
  · split at h
    · rename_i hl; cases h; exact hl
    · cases h
  · cases h

theorem readResult_ok {bytes : Bytes} : readResult bytes.length (.ok bytes) = some bytes := by simp [readResult]

/-- One transaction taken from the listed answers. -/
theorem grew_one {ceiling : Nat} {b : Bus} {a : Answer} {rest : List Answer} {e : Event} (h : b.answers = a :: rest)
    (ht : isTransaction e = true) (hl : legalEvent ceiling e) : b.grew ceiling (b.advance 1 [e]) := by
  refine ⟨[e], by simpa using hl, ?_, ?_⟩ <;> simp [transactionCount, ht, h]

theorem busWrite_onBus {ceiling : Nat} (bytes : Bytes) (b : Bus) (h : legalTransaction ceiling (.write bytes)) :
    (busWrite bytes b).onBus ceiling b (·.2) := by
  cases hb : b.answers with
  | nil =>
    rw [busWrite_unlisted bytes hb]
    exact ⟨[], by simp [awaits, transactionCount, hb, h]⟩
  | cons a rest =>
    rw [busWrite_listed bytes hb]
    exact grew_one hb rfl h

theorem busRead_onBus {ceiling : Nat} (n : Nat) (b : Bus) (h : legalTransaction ceiling (.read n)) :
    (busRead n b).onBus ceiling b (·.2) := by
  cases hb : b.answers with
  | nil =>
    rw [busRead_unlisted n hb]
    exact ⟨[], by simp [awaits, transactionCount, hb, h]⟩
  | cons a rest =>
    rw [busRead_listed n hb]
    exact grew_one hb rfl ⟨h, fun _ => readResult_length⟩

theorem busWrite_carries (bytes : Bytes) (b : Bus) (more : List Answer) :
    (busWrite bytes b).carries (fun r => (r.1, r.2.withMore more)) (busWrite bytes (b.withMore more)) := by
  cases hb : b.answers with
  | nil => rw [busWrite_unlisted bytes hb]; exact ⟨by simp, by simp⟩
  | cons a rest =>
    rw [busWrite_listed bytes hb, busWrite_listed (a := a) (rest := rest ++ more) bytes (by simp [hb])]
    exact Run.carries_done (by simp [Bus.advance, Bus.withMore, hb])

theorem busRead_carries (n : Nat) (b : Bus) (more : List Answer) :
    (busRead n b).carries (fun r => (r.1, r.2.withMore more)) (busRead n (b.withMore more)) := by
  cases hb : b.answers with
  | nil => rw [busRead_unlisted n hb]; exact ⟨by simp, by simp⟩
  | cons a rest =>
    rw [busRead_listed n hb, busRead_listed (a := a) (rest := rest ++ more) n (by simp [hb])]
    exact Run.carries_done (by simp [Bus.advance, Bus.withMore, hb])

/-! ### Sequencer and framer -/

theorem nextSequenceOp_named {channel : Byte} (s : Session) (h : channel.toNat < nchan) :
    nextSequenceOp channel s = .done (s.seq[channel.toNat],
      { s with seq := s.seq.set channel.toNat (s.seq[channel.toNat] + 1) }) := by
  simp [nextSequenceOp, h]

theorem nextSequenceOp_done {channel : Byte} {s : Session} {r : Byte × Session} :
    nextSequenceOp channel s = .done r ↔ ∃ h : channel.toNat < nchan,
      r = (s.seq[channel.toNat], { s with seq := s.seq.set channel.toNat (s.seq[channel.toNat] + 1) }) := by
  unfold nextSequenceOp
  split <;> simp_all [eq_comm]

theorem headerRaw_toNat (h : Header) : h.raw.toNat = h.continuation.toNat * 32768 + h.length.toNat := by
  have e : h.raw.toNat = (BitVec.ofBool h.continuation).toNat <<< 15 ||| h.length.toNat := BitVec.toNat_append ..
  rw [e, ← Nat.shiftLeft_add_eq_or_of_lt h.length.isLt, Nat.shiftLeft_eq]
  cases h.continuation <;> rfl

/-- The 4 header bytes a frame starts with are those of R90 with the flag 0. -/
theorem frameOp_eq (channel sequence : Byte) (payload : Bytes) (h : payload.length ≤ 32763) :
    frameOp channel sequence payload = .done (packetBytes channel sequence payload) := by
  have hn : ¬ 32763 < payload.length := by omega
  have e := headerRaw_toNat ⟨BitVec.ofNat 15 (payload.length + 4), false, channel, sequence⟩
  rw [BitVec.toNat_ofNat, Nat.mod_eq_of_lt (by omega)] at e
  simp only [frameOp, hn, if_false, packetBytes, Header.bytes]
  congr 3
  · apply BitVec.eq_of_toNat_eq
    simp [e]
  · congr 1
    apply BitVec.eq_of_toNat_eq
    simp [e]

/-- A packet's bytes on numbers. -/
theorem packetBytes_eq {payload : Bytes} (channel sequence : Byte) (h : payload.length ≤ 32763) :
    packetBytes channel sequence payload = [BitVec.ofNat 8 (payload.length + 4),
      BitVec.ofNat 8 ((payload.length + 4) / 256), channel, sequence] ++ payload := by
  have e := frameOp_eq channel sequence payload h
  simp only [frameOp, if_neg (Nat.not_lt.2 h), Nat.shiftRight_eq_div_pow] at e
  exact (Run.done.inj e).symm

/-- The set-feature packet, byte by byte. -/
theorem packetBytes_setFeature (ss rr : Byte) (micros config : Word32) :
    packetBytes Channel.control.code ss (setFeaturePayload rr micros config) = setFeatureImage ss rr micros config := by
  rw [packetBytes_eq _ _ (by simp [setFeaturePayload, bytesLe32])]
  simp [setFeaturePayload, bytesLe32, setFeatureImage, Channel.code]

/-- The soft-reset packet, byte by byte. -/
theorem packetBytes_softReset (ss : Byte) :
    packetBytes Channel.executable.code ss [softResetByte] = softResetImage ss := by
  rw [packetBytes_eq _ _ (by simp)]
  rfl

/-- The product-id request, byte by byte. -/
theorem packetBytes_productId (ss : Byte) :
    packetBytes Channel.control.code ss [idProductIdRequest, 0x00] = productIdImage ss := by
  rw [packetBytes_eq _ _ (by simp)]
  rfl

theorem packetBytes_length (channel sequence : Byte) (payload : Bytes) :
    (packetBytes channel sequence payload).length = payload.length + 4 := by
  simp [packetBytes, Header.bytes]

/-- A send in its domain: one write of the stamped frame, the number spent whatever the answer (R132, R152). -/
theorem sendOp_listed {channel : Byte} {payload : Bytes} {w : Work} {a : Answer} {rest : List Answer}
    (hc : channel.toNat < nchan) (hl : payload.length ≤ 32763) (ht : payload.length + 4 ≤ w.session.cfg.ceiling)
    (ha : w.bus.answers = a :: rest) :
    sendOp channel payload w = .done (writeResult a,
      { session := { w.session with seq := w.session.seq.set channel.toNat (w.session.seq[channel.toNat] + 1) },
        bus := w.bus.advance 1 (writeEvents (packetBytes channel w.session.seq[channel.toNat] payload) a) }) := by
  have ht' : ¬ w.session.cfg.ceiling < payload.length + 4 := by omega
  simp only [sendOp, nextSequenceOp_named _ hc, Run.bind_done, frameOp_eq _ _ _ hl, packetBytes_length, ht', if_false,
    busWrite_listed _ ha, writeEvents]
  cases writeResult a <;> simp

/-- All that a send that returns can have done. -/
theorem sendOp_done {channel : Byte} {payload : Bytes} {w : Work} {r : Bool × Work}
    (h : sendOp channel payload w = .done r) :
    ∃ (hc : channel.toNat < nchan) (a : Answer) (rest : List Answer), payload.length ≤ 32763 ∧
      payload.length + 4 ≤ w.session.cfg.ceiling ∧ w.bus.answers = a :: rest ∧
      r = (writeResult a,
        { session := { w.session with seq := w.session.seq.set channel.toNat (w.session.seq[channel.toNat] + 1) },
          bus := w.bus.advance 1 (writeEvents (packetBytes channel w.session.seq[channel.toNat] payload) a) }) := by
  have h0 := h
  unfold sendOp at h
  obtain ⟨st, h1, h⟩ := Run.bind_eq_done.1 h
  obtain ⟨hc, rfl⟩ := nextSequenceOp_done.1 h1
  obtain ⟨fr, h2, h⟩ := Run.bind_eq_done.1 h
  have hl : payload.length ≤ 32763 := by
    unfold frameOp at h2
    split at h2
    · cases h2
    · omega
  rw [frameOp_eq _ _ _ hl] at h2
  cases h2
  simp only [packetBytes_length] at h
  split at h
  · cases h
  · rename_i ht
    cases ha : w.bus.answers with
    | nil => rw [busWrite_unlisted _ ha] at h; cases h
    | cons a rest =>
      have ht : payload.length + 4 ≤ w.session.cfg.ceiling := by omega
      refine ⟨hc, a, rest, hl, ht, rfl, ?_⟩
      rw [sendOp_listed hc hl ht ha] at h0
      cases h0
      rfl

theorem sendOp_onBus {ceiling : Nat} (channel : Byte) (payload : Bytes) (w : Work)
    (hc : w.session.cfg.ceiling = ceiling) : (sendOp channel payload w).onBus ceiling w.bus (·.2.bus) := by
  unfold sendOp
  refine Run.onBus_bind (p := fun _ => w.bus) ?_ ?_
  · unfold nextSequenceOp
    split
    · exact Bus.grew_refl _ _
    · trivial
  intro st _
  refine Run.onBus_bind (p := fun _ => w.bus) ?_ ?_
  · unfold frameOp
    split
    · trivial
    · exact Bus.grew_refl _ _
  intro fr hfr
  split
  · trivial
  · rename_i hle
    have hp : 1 ≤ fr.length := by
      unfold frameOp at hfr
      split at hfr
      · cases hfr
      · cases hfr; simp
    refine Run.onBus_bind (busWrite_onBus fr w.bus ⟨hp, by omega⟩) ?_
    intro wr _
    show wr.2.grew ceiling (if wr.1 = true then wr.2 else raise .transportError wr.2)
    split
    · exact Bus.grew_refl _ _
    · exact grew_raise _ _ _

theorem sendOp_carries (channel : Byte) (payload : Bytes) (w : Work) (more : List Answer) :
    (sendOp channel payload w).carries (fun r => (r.1, r.2.withMore more))
      (sendOp channel payload (w.withMore more)) := by
  simp only [sendOp, Work.withMore]
  refine Run.carries_bind_same _ fun st _ => Run.carries_bind_same _ fun fr _ => Run.carries_ite ?_ ?_
  · exact fun _ => Run.carries_refused _
  · refine fun _ => Run.carries_bind (busWrite_carries fr w.bus more) fun wr _ => ?_
    refine Run.carries_done ?_
    cases wr.1 <;> rfl

/-! ### The deframer -/

/-- A chunk loop that returns: some legal reads, and with every chunk delivered, the first CAPACITY bytes kept. -/
theorem readChunks_onBus {cfg : Config} (hc : 5 ≤ cfg.ceiling) (fuel remaining : Nat) (payload : Bytes) (b : Bus) :
    (readChunks cfg fuel remaining payload b).onBus cfg.ceiling b (·.2) := by
  induction fuel generalizing remaining payload b with
  | zero => exact Bus.grew_refl _ _
  | succ fuel ih =>
    unfold readChunks
    split
    · exact Bus.grew_refl _ _
    · refine Run.onBus_bind (busRead_onBus _ b (Or.inr ⟨by omega, by omega⟩)) fun c _ => ?_
      split
      · exact Bus.grew_refl _ _
      · exact ih _ _ _

theorem readChunks_carries (cfg : Config) (more : List Answer) (fuel remaining : Nat) (payload : Bytes) (b : Bus) :
    (readChunks cfg fuel remaining payload b).carries (fun r => (r.1, r.2.withMore more))
      (readChunks cfg fuel remaining payload (b.withMore more)) := by
  induction fuel generalizing remaining payload b with
  | zero => exact Run.carries_done rfl
  | succ fuel ih =>
    unfold readChunks
    split
    · exact Run.carries_done rfl
    · refine Run.carries_bind (busRead_carries _ b more) fun c _ => ?_
      simp only
      cases c.1 with
      | none => exact Run.carries_done rfl
      | some bytes => exact ih _ _ _

theorem afterProbe_onBus {cfg : Config} (hc : 5 ≤ cfg.ceiling) (h : Header) (b : Bus) :
    (afterProbe cfg h b).onBus cfg.ceiling b (·.2) := by
  unfold afterProbe
  split
  · exact grew_raise _ _ _
  split
  · exact grew_raise _ _ _
  refine Run.onBus_bind (readChunks_onBus hc _ _ _ b) fun p _ => ?_
  split
  · exact grew_raise _ _ _
  · show Bus.grew cfg.ceiling p.2 (if _ then _ else _)
    split
    · exact grew_raise _ _ _
    · exact Bus.grew_refl _ _

theorem afterProbe_carries (cfg : Config) (h : Header) (b : Bus) (more : List Answer) :
    (afterProbe cfg h b).carries (fun r => (r.1, r.2.withMore more)) (afterProbe cfg h (b.withMore more)) := by
  unfold afterProbe
  split
  · exact Run.carries_done rfl
  split
  · exact Run.carries_done rfl
  refine Run.carries_bind (readChunks_carries cfg more _ _ _ b) fun p _ => ?_
  simp only
  cases p.1 with
  | none => exact Run.carries_done rfl
  | some payload =>
    refine Run.carries_done ?_
    split <;> rfl

theorem deframeOp_onBus {cfg : Config} (hc : 5 ≤ cfg.ceiling) (b : Bus) :
    (deframeOp cfg b).onBus cfg.ceiling b (·.2) := by
  refine Run.onBus_bind (busRead_onBus 4 b (Or.inl rfl)) fun p _ => ?_
  split
  · exact grew_raise _ _ _
  · exact afterProbe_onBus hc _ _

theorem deframeOp_carries (cfg : Config) (b : Bus) (more : List Answer) :
    (deframeOp cfg b).carries (fun r => (r.1, r.2.withMore more)) (deframeOp cfg (b.withMore more)) := by
  refine Run.carries_bind (busRead_carries 4 b more) fun p _ => ?_
  simp only
  split
  · exact Run.carries_done rfl
  · exact afterProbe_carries cfg _ _ more

/-- A deframe with no answer listed awaits its probe. -/
theorem deframeOp_unlisted {cfg : Config} {b : Bus} (h : b.answers = []) :
    deframeOp cfg b = .waits ⟨b.history, .read 4⟩ := by simp [deframeOp, busRead_unlisted 4 h]

theorem readChunks_answers {cfg : Config} {fuel remaining : Nat} {payload : Bytes} {b : Bus}
    {r : Option Bytes × Bus} (h : readChunks cfg fuel remaining payload b = .done r) :
    r.2.answers.length ≤ b.answers.length := by
  induction fuel generalizing remaining payload b with
  | zero => cases h; exact Nat.le_refl _
  | succ fuel ih =>
    unfold readChunks at h
    split at h
    · cases h; exact Nat.le_refl _
    · obtain ⟨c, hr, h⟩ := Run.bind_eq_done.1 h
      have hc : c.2.answers.length ≤ b.answers.length := by
        cases hb : b.answers with
        | nil => rw [busRead_unlisted _ hb] at hr; cases hr
        | cons a rest => rw [busRead_listed _ hb] at hr; cases hr; simp [hb]
      split at h
      · cases h; exact hc
      · exact Nat.le_trans (ih h) hc

theorem afterProbe_answers {cfg : Config} {h : Header} {b : Bus} {r : DeframeResult × Bus}
    (e : afterProbe cfg h b = .done r) : r.2.answers.length ≤ b.answers.length := by
  unfold afterProbe at e
  split at e
  · cases e; exact Nat.le_refl _
  split at e
  · cases e; exact Nat.le_refl _
  obtain ⟨p, hp, e⟩ := Run.bind_eq_done.1 e
  have := readChunks_answers hp
  split at e
  · cases e; exact this
  · cases e
    show (if _ then _ else _ : Bus).answers.length ≤ _
    split <;> exact this

/-- A deframe that returns has taken at least its probe's answer. -/
theorem deframeOp_answers {cfg : Config} {b : Bus} {r : DeframeResult × Bus} (h : deframeOp cfg b = .done r) :
    r.2.answers.length < b.answers.length := by
  obtain ⟨p, hp, h⟩ := Run.bind_eq_done.1 h
  cases hb : b.answers with
  | nil => rw [busRead_unlisted _ hb] at hp; cases hp
  | cons a rest =>
    rw [busRead_listed _ hb] at hp
    cases hp
    simp only [List.length_cons, Nat.lt_succ_iff]
    split at h
    · cases h; simp [hb]
    · simpa [hb] using afterProbe_answers h

end Sys2Proof.Machine
end

