-- ==== Sys2Proof/Laws/Control.lean ====
section
/-! SUPPORT. What the drain, the reset sequence, the accounting, the replay and the decode can do: to the transport,
with further answers, and to the session. -/

namespace Sys2Proof.Machine

theorem configWf_ceiling {c : Config} (h : configWf c = true) : 21 ≤ c.ceiling ∧ c.ceiling ≤ 32767 := by
  simp only [configWf, Bool.and_eq_true, decide_eq_true_eq] at h
  tauto

theorem configWf_capacity {c : Config} (h : configWf c = true) : 1 ≤ c.capacity ∧ 1 ≤ c.failThreshold := by
  simp only [configWf, Bool.and_eq_true, decide_eq_true_eq] at h
  tauto

/-! ### The drain -/

theorem drainLoop_onBus {cfg : Config} (hc : 5 ≤ cfg.ceiling) (fuel empties : Nat) (b : Bus)
    (hf : b.answers.length ≤ fuel) : (drainLoop cfg fuel empties b).onBus cfg.ceiling b (·.2) := by
  induction fuel generalizing empties b with
  | zero =>
    unfold drainLoop
    split
    · exact ⟨[], by simp, by simp [awaits, transactionCount, legalTransaction]; omega⟩
    · exact Bus.grew_refl _ _
  | succ fuel ih =>
    unfold drainLoop
    split
    · refine Run.onBus_bind (deframeOp_onBus hc b) fun d hd => ?_
      have := deframeOp_answers hd
      split
      · exact ih _ _ (by omega)
      · exact ih _ _ (by omega)
      · exact Bus.grew_refl _ _
      · exact Bus.grew_refl _ _
    · exact Bus.grew_refl _ _

theorem drainLoop_carries (cfg : Config) (more : List Answer) (fuel extra empties : Nat) (b : Bus) :
    (drainLoop cfg fuel empties b).carries (fun r => (r.1, r.2.withMore more))
      (drainLoop cfg (fuel + extra) empties (b.withMore more)) := by
  induction fuel generalizing empties b with
  | zero =>
    by_cases he : empties < 2
    · exact ⟨by simp [drainLoop, he], by simp [drainLoop, he]⟩
    · rw [show drainLoop cfg 0 empties b = .done (.completed, b) by simp [drainLoop, he]]
      cases extra <;> simp only [drainLoop, he, Nat.add_eq, Nat.zero_add, if_false] <;> exact Run.carries_done rfl
  | succ fuel ih =>
    rw [Nat.succ_add]
    unfold drainLoop
    refine Run.carries_ite (fun _ => ?_) fun _ => Run.carries_done rfl
    refine Run.carries_bind (deframeOp_carries cfg b more) fun d _ => ?_
    simp only
    cases d.1 with
    | noData => exact ih _ _
    | packet _ _ _ _ => exact ih _ _
    | transportError => exact Run.carries_done rfl
    | truncated => exact Run.carries_done rfl

theorem drainOp_onBus {cfg : Config} (hc : 5 ≤ cfg.ceiling) (b : Bus) :
    (drainOp cfg b).onBus cfg.ceiling b (·.2) := drainLoop_onBus hc _ _ _ (Nat.le_refl _)

theorem drainOp_carries (cfg : Config) (b : Bus) (more : List Answer) :
    (drainOp cfg b).carries (fun r => (r.1, r.2.withMore more)) (drainOp cfg (b.withMore more)) := by
  unfold drainOp
  rw [Bus.withMore_answers, List.length_append]
  exact drainLoop_carries cfg more _ _ _ b

/-! ### The reset sequence -/

theorem sendOp_session {channel : Byte} {payload : Bytes} {w : Work} {r : Bool × Work}
    (h : sendOp channel payload w = .done r) :
    r.2.session = { w.session with seq := r.2.session.seq } := by
  obtain ⟨_, _, _, _, _, _, rfl⟩ := sendOp_done h
  rfl

theorem sendOp_cfg {channel : Byte} {payload : Bytes} {w : Work} {r : Bool × Work}
    (h : sendOp channel payload w = .done r) : r.2.session.cfg = w.session.cfg := by rw [sendOp_session h]

theorem resetOp_onBus {ceiling : Nat} (w : Work) (hc : w.session.cfg.ceiling = ceiling) (h5 : 5 ≤ ceiling) :
    (resetOp w).onBus ceiling w.bus (·.2.bus) := by
  refine Run.onBus_bind (p := (·.2.bus))
    (sendOp_onBus _ _ { w with session := enterResetting w.session } hc) fun r hr => ?_
  split
  · have hcfg : ∀ s : Session, s.cfg = r.2.session.cfg → s.cfg.ceiling = ceiling := by
      intro s hs; rw [hs, sendOp_cfg hr]; exact hc
    have hk : (if r.2.session.cfg.seqClearOnSoftReset = true then clearSequence r.2.session else r.2.session).cfg.ceiling
        = ceiling := by split <;> exact hcfg _ rfl
    refine Run.onBus_bind (p := (·.2)) (by rw [← hk] at h5 ⊢; exact drainOp_onBus h5 _) fun d _ => ?_
    split
    · exact Bus.grew_refl _ _
    · refine Run.onBus_bind (p := (·.2.bus)) (sendOp_onBus _ _ _ hk) fun q _ => ?_
      split <;> exact Bus.grew_refl _ _
  · exact Bus.grew_refl _ _

theorem resetOp_carries (w : Work) (more : List Answer) :
    (resetOp w).carries (fun r => (r.1, r.2.withMore more)) (resetOp (w.withMore more)) := by
  refine Run.carries_bind (sendOp_carries _ _ _ more) fun r _ => Run.carries_ite (fun _ => ?_) fun _ =>
    Run.carries_done rfl
  refine Run.carries_bind (drainOp_carries _ _ more) fun d _ => ?_
  simp only
  cases d.1 with
  | aborted => exact Run.carries_done rfl
  | completed =>
    exact Run.carries_bind (sendOp_carries _ _ _ more) fun q _ => Run.carries_ite
      (fun _ => Run.carries_done rfl) fun _ => Run.carries_done rfl

/-- What the reset sequence leaves in the session: the counters cleared, the table written through the sequencer, and
everything else, the record and the slots among it, as it was (R223, R293). -/
theorem resetOp_session {w : Work} {r : ResetResult × Work} (h : resetOp w = .done r) :
    (r.1 = .completed ∧ r.2.session =
      { enterResetting w.session with fsm := .awaitingHandshake, seq := r.2.session.seq }) ∨
    (r.1 = .aborted ∧ r.2.session = { enterResetting w.session with seq := r.2.session.seq }) := by
  obtain ⟨r1, h1, h⟩ := Run.bind_eq_done.1 h
  have e1 := sendOp_session h1
  split at h
  · have e2 : (if r1.2.session.cfg.seqClearOnSoftReset = true then clearSequence r1.2.session else r1.2.session) =
        { enterResetting w.session with seq := (if r1.2.session.cfg.seqClearOnSoftReset = true then
          clearSequence r1.2.session else r1.2.session).seq } := by
      split
      · show clearSequence r1.2.session = _; rw [e1]; rfl
      · exact e1
    obtain ⟨d, -, h⟩ := Run.bind_eq_done.1 h
    split at h
    · cases h; exact Or.inr ⟨rfl, e2⟩
    · obtain ⟨q, hq, h⟩ := Run.bind_eq_done.1 h
      have e3 := sendOp_session hq
      simp only at e3
      rw [e2] at e3
      split at h
      · cases h; exact Or.inl ⟨rfl, by simp only; rw [e3]⟩
      · cases h; exact Or.inr ⟨rfl, by rw [e3]⟩
  · cases h; exact Or.inr ⟨rfl, e1⟩

/-! ### Accounting -/

theorem accountOp_onBus {ceiling : Nat} (failedNow : Bool) (w : Work) (hc : w.session.cfg.ceiling = ceiling)
    (h5 : 5 ≤ ceiling) : (accountOp failedNow w).onBus ceiling w.bus (·.2.bus) := by
  unfold accountOp
  split
  · split
    · refine Run.onBus_bind (p := (·.2.bus)) (resetOp_onBus { w with session := { w.session with
        failCount := w.session.failCount + 1 } } hc h5) fun r _ => ?_
      exact Bus.grew_refl _ _
    · exact Bus.grew_refl _ _
  · exact Bus.grew_refl _ _

theorem accountOp_carries (failedNow : Bool) (w : Work) (more : List Answer) :
    (accountOp failedNow w).carries (fun r => (r.1, r.2.withMore more)) (accountOp failedNow (w.withMore more)) := by
  refine Run.carries_ite (fun _ => Run.carries_ite (fun _ => ?_) fun _ => ?_) fun _ => ?_
  · exact Run.carries_bind (resetOp_carries _ more) fun r _ => Run.carries_done rfl
  · exact Run.carries_done rfl
  · exact Run.carries_done rfl

/-- The three ways the accounting returns (R229, R230). -/
theorem accountOp_done {failedNow : Bool} {w : Work} {r : AccountResult × Work} (h : accountOp failedNow w = .done r) :
    (failedNow = false ∧ r = (.normal, { w with session := { w.session with failCount := 0 } })) ∨
    (failedNow = true ∧ w.session.failCount + 1 < w.session.cfg.failThreshold ∧
      r = (.normal, { w with session := { w.session with failCount := w.session.failCount + 1 } })) ∨
    (failedNow = true ∧ w.session.cfg.failThreshold ≤ w.session.failCount + 1 ∧ r.1 = .tripped ∧
      ∃ q, resetOp { w with session := { w.session with failCount := w.session.failCount + 1 } } = .done (q, r.2)) := by
  unfold accountOp at h
  split at h
  · split at h
    · rename_i hf ht
      obtain ⟨q, hq, h⟩ := Run.bind_eq_done.1 h
      cases h
      exact Or.inr (Or.inr ⟨hf, ht, rfl, q.1, hq⟩)
    · rename_i hf ht
      cases h
      exact Or.inr (Or.inl ⟨hf, by omega, rfl⟩)
  · rename_i hf
    cases h
    exact Or.inl ⟨by simpa using hf, rfl⟩

/-! ### The replay -/

theorem replayLoop_onBus {ceiling : Nat} (l : List ActiveEntry) (bad : Bool) (w : Work)
    (hc : w.session.cfg.ceiling = ceiling) : (replayLoop l bad w).onBus ceiling w.bus (·.2.bus) := by
  induction l generalizing bad w with
  | nil => exact Bus.grew_refl _ _
  | cons e rest ih =>
    refine Run.onBus_bind (p := fun _ => w.bus) ?_ fun p _ => ?_
    · unfold setFeatureOp
      split
      · trivial
      · exact Bus.grew_refl _ _
    refine Run.onBus_bind (p := (·.2.bus)) (sendOp_onBus _ _ _ hc) fun r hr => ih _ _ (by rw [sendOp_cfg hr, hc])

theorem replayLoop_carries (l : List ActiveEntry) (bad : Bool) (w : Work) (more : List Answer) :
    (replayLoop l bad w).carries (fun r => (r.1, r.2.withMore more)) (replayLoop l bad (w.withMore more)) := by
  induction l generalizing bad w with
  | nil => exact Run.carries_done rfl
  | cons e rest ih =>
    exact Run.carries_bind_same _ fun p _ => Run.carries_bind (sendOp_carries _ _ _ more) fun r _ => ih _ _

theorem replayLoop_session {l : List ActiveEntry} {bad : Bool} {w : Work} {r : Bool × Work}
    (h : replayLoop l bad w = .done r) : r.2.session = { w.session with seq := r.2.session.seq } := by
  induction l generalizing bad w with
  | nil => cases h; rfl
  | cons e rest ih =>
    obtain ⟨p, -, h⟩ := Run.bind_eq_done.1 h
    obtain ⟨q, hq, h⟩ := Run.bind_eq_done.1 h
    rw [ih h, sendOp_session hq]

theorem replayOp_onBus {ceiling : Nat} (w : Work) (hc : w.session.cfg.ceiling = ceiling) :
    (replayOp w).onBus ceiling w.bus (·.2.bus) := replayLoop_onBus _ _ _ hc

theorem replayOp_carries (w : Work) (more : List Answer) :
    (replayOp w).carries (fun r => (r.1, r.2.withMore more)) (replayOp (w.withMore more)) :=
  replayLoop_carries _ _ w more

theorem handshakeOp_session {w : Work} {r : Bool × Work} (h : handshakeOp w = .done r) :
    r.2.session = { w.session with fsm := .ready, seq := r.2.session.seq } := replayLoop_session h

/-! ### The decode -/

theorem recordOutcome_grew (ceiling : Nat) (o : DecodeOutcome) (b : Bus) : b.grew ceiling (recordOutcome o b) := by
  unfold recordOutcome
  split
  · exact grew_raise _ _ _
  · exact Bus.grew_refl _ _

theorem recordOutcome_withMore (o : DecodeOutcome) (b : Bus) (more : List Answer) :
    recordOutcome o (b.withMore more) = (recordOutcome o b).withMore more := by
  unfold recordOutcome
  split <;> rfl

theorem decodeOp_onBus {ceiling : Nat} (channel : Byte) (payload : Bytes) (w : Work) :
    (decodeOp channel payload w).onBus ceiling w.bus (·.2.bus) := by
  unfold decodeOp
  split
  · trivial
  split
  · trivial
  · exact recordOutcome_grew _ _ _

theorem decodeOp_carries (channel : Byte) (payload : Bytes) (w : Work) (more : List Answer) :
    (decodeOp channel payload w).carries (fun r => (r.1, r.2.withMore more))
      (decodeOp channel payload (w.withMore more)) := by
  refine Run.carries_ite (fun _ => Run.carries_refused _) fun _ => ?_
  cases classify channel payload with
  | none => exact Run.carries_refused _
  | some r =>
    refine Run.carries_done ?_
    simp only [decodeAction, Work.withMore, recordOutcome_withMore]

/-- The ways a slot-writing action ends (R184, R186). -/
theorem writeSlot_cases {α : Type} (kind : Kind) (minimum : Nat) (payload : Bytes) (record : Option α)
    (put : α → Session) (s : Session) :
    writeSlot kind minimum payload record put s = (.incomplete, s) ∨
    ∃ r, record = some r ∧ minimum ≤ payload.length ∧ writeSlot kind minimum payload record put s = (.report kind, put r) := by
  unfold writeSlot
  split
  · exact Or.inl rfl
  · split
    · exact Or.inr ⟨_, rfl, by omega, rfl⟩
    · exact Or.inl rfl

end Sys2Proof.Machine
end

