-- ==== Sys2Proof/Laws/PerInstr.lean ====
section
/-! SUPPORT. Of every instruction, as syntax: its bytes begin with a header that tells their number, carries the flag 0
and the sequence byte it was given (R90, R91, R93, R94). -/

namespace Sys2Proof.Laws

open Sys2Proof.Machine

/-- The length that a header of these bytes gives. -/
theorem lengthOf_toNat (l m : Byte) : (m.extractLsb' 0 7 ++ l).toNat = m.toNat % 128 * 256 + l.toNat := by
  have e : (m.extractLsb' 0 7 ++ l).toNat = (m.extractLsb' 0 7).toNat <<< 8 ||| l.toNat := BitVec.toNat_append ..
  rw [e, ← Nat.shiftLeft_add_eq_or_of_lt l.isLt, Nat.shiftLeft_eq]
  simp

/-- The header that the 4 bytes of a header read as is that header. -/
theorem header_read_bytes (h : Header) : Header.read h.bytes = some h := by
  obtain ⟨len, cont, c, s⟩ := h
  have e := headerRaw_toNat ⟨len, cont, c, s⟩
  have hl := len.isLt
  have hc : cont.toNat < 2 := by cases cont <;> decide
  simp only [Header.bytes, Header.read, Option.some.injEq, Header.mk.injEq, and_true]
  constructor
  · apply BitVec.eq_of_toNat_eq
    rw [lengthOf_toNat]
    simp only [BitVec.extractLsb'_toNat, e, Nat.shiftRight_eq_div_pow]
    omega
  · rw [BitVec.getLsbD, Nat.testBit_eq_decide_div_mod_eq, BitVec.extractLsb'_toNat, e, Nat.shiftRight_eq_div_pow]
    have : (cont.toNat * 32768 + len.toNat) / 2 ^ 8 % 2 ^ 8 / 2 ^ 7 % 2 = cont.toNat := by omega
    rw [this]
    cases cont <;> rfl

/-- The header of a packet's bytes, for a payload in range. -/
theorem header_read_packet (channel sequence : Byte) (payload : Bytes) :
    Header.read ((packetBytes channel sequence payload).take 4) =
      some ⟨BitVec.ofNat 15 (payload.length + 4), false, channel, sequence⟩ := by
  rw [show (packetBytes channel sequence payload).take 4 =
    Header.bytes ⟨BitVec.ofNat 15 (payload.length + 4), false, channel, sequence⟩ from rfl]
  exact header_read_bytes _

/-- What stands after the header of a packet is its payload. -/
theorem drop_packetBytes (channel sequence : Byte) (payload : Bytes) :
    (packetBytes channel sequence payload).drop 4 = payload := rfl

/-- The bytes, where there are any, begin with a header; a packet's header tells the truth about it. -/
def Framed.Statement (i : Instr) : Prop :=
  i.wellFormed = true → ∀ ss f bytes, encode i ss = some (f, bytes) →
    ∃ h, Header.read (bytes.take 4) = some h ∧
      (f = .header ∨ h.length.toNat = bytes.length ∧ h.continuation = false ∧ h.sequence = ss)

/-- A packet with a payload in range is framed. -/
theorem framed_packet {f : Form} {channel : Byte} {payload : Bytes} (hl : payload.length ≤ 32763)
    {ss : Byte} {g : Form} {bytes : Bytes} (h : some (f, packetBytes channel ss payload) = some (g, bytes)) :
    ∃ h, Header.read (bytes.take 4) = some h ∧
      (g = .header ∨ h.length.toNat = bytes.length ∧ h.continuation = false ∧ h.sequence = ss) := by
  cases h
  refine ⟨_, header_read_packet _ _ _, Or.inr ⟨?_, rfl, rfl⟩⟩
  rw [packetBytes_length, BitVec.toNat_ofNat, Nat.mod_eq_of_lt (by omega)]

theorem length_of_payloadInRange {p : Bytes} (h : payloadInRange p = true) :
    1 ≤ p.length ∧ p.length ≤ 32763 := by simpa [payloadInRange] using h

theorem length_of_startsWith {id : Byte} {p : Bytes} (h : startsWith id p = true) :
    1 ≤ p.length ∧ p.length ≤ 32763 := length_of_payloadInRange (Bool.and_eq_true _ _ ▸ h).1

theorem length_of_isSubReport {id : Byte} {p : Bytes} (h : isSubReport id p = true) :
    1 ≤ p.length ∧ p.length ≤ 32763 := length_of_startsWith (Bool.and_eq_true _ _ ▸ h).1

theorem Framed.inPidr (payload : Bytes) : Framed.Statement (.inPidr payload) := by
  intro hw ss f bytes h
  exact framed_packet (length_of_startsWith hw).2 h

theorem Framed.inCmdr (payload : Bytes) : Framed.Statement (.inCmdr payload) := by
  intro hw ss f bytes h
  exact framed_packet (length_of_startsWith hw).2 h

theorem Framed.inCtrlOther (payload : Bytes) : Framed.Statement (.inCtrlOther payload) := by
  intro hw ss f bytes h
  exact framed_packet (length_of_payloadInRange (by simp only [Instr.wellFormed, Bool.and_eq_true] at hw; exact hw.1.1)).2 h

theorem Framed.inAccel (payload : Bytes) : Framed.Statement (.inAccel payload) := by
  intro hw ss f bytes h
  exact framed_packet (length_of_isSubReport hw).2 h

theorem Framed.inGyro (payload : Bytes) : Framed.Statement (.inGyro payload) := by
  intro hw ss f bytes h
  exact framed_packet (length_of_isSubReport hw).2 h

theorem Framed.inMag (payload : Bytes) : Framed.Statement (.inMag payload) := by
  intro hw ss f bytes h
  exact framed_packet (length_of_isSubReport hw).2 h

theorem Framed.inLinAccel (payload : Bytes) : Framed.Statement (.inLinAccel payload) := by
  intro hw ss f bytes h
  exact framed_packet (length_of_isSubReport hw).2 h

theorem Framed.inRotVec (payload : Bytes) : Framed.Statement (.inRotVec payload) := by
  intro hw ss f bytes h
  exact framed_packet (length_of_isSubReport hw).2 h

theorem Framed.inGameRotVec (payload : Bytes) : Framed.Statement (.inGameRotVec payload) := by
  intro hw ss f bytes h
  exact framed_packet (length_of_isSubReport hw).2 h

theorem Framed.inSteps (payload : Bytes) : Framed.Statement (.inSteps payload) := by
  intro hw ss f bytes h
  exact framed_packet (length_of_isSubReport hw).2 h

theorem Framed.inStability (payload : Bytes) : Framed.Statement (.inStability payload) := by
  intro hw ss f bytes h
  exact framed_packet (length_of_isSubReport hw).2 h

theorem Framed.inActivity (payload : Bytes) : Framed.Statement (.inActivity payload) := by
  intro hw ss f bytes h
  exact framed_packet (length_of_isSubReport hw).2 h

theorem Framed.inSubOther (payload : Bytes) : Framed.Statement (.inSubOther payload) := by
  intro hw ss f bytes h
  exact framed_packet (length_of_startsWith (Bool.and_eq_true _ _ ▸ hw).1).2 h

theorem Framed.inReportsOther (payload : Bytes) : Framed.Statement (.inReportsOther payload) := by
  intro hw ss f bytes h
  exact framed_packet (length_of_payloadInRange (by simp only [Instr.wellFormed, Bool.and_eq_true] at hw; exact hw.1)).2 h

theorem Framed.inCh0 (payload : Bytes) : Framed.Statement (.inCh0 payload) := by
  intro hw ss f bytes h
  exact framed_packet (length_of_payloadInRange hw).2 h

theorem Framed.inChOther (channel : Byte) (payload : Bytes) : Framed.Statement (.inChOther channel payload) := by
  intro hw ss f bytes h
  exact framed_packet (length_of_payloadInRange (by simp only [Instr.wellFormed, Bool.and_eq_true] at hw; exact hw.1.1.1)).2 h

theorem Framed.outSetf (reportId : Byte) (intervalMicros specificConfig : Word32) : Framed.Statement (.outSetf reportId intervalMicros specificConfig) := by
  intro _ ss f bytes h
  exact framed_packet (by simp [setFeaturePayload, bytesLe32]) h

theorem Framed.outSrst : Framed.Statement (.outSrst) := by
  intro _ ss f bytes h
  exact framed_packet (by simp) h

theorem Framed.outPidq : Framed.Statement (.outPidq) := by
  intro _ ss f bytes h
  exact framed_packet (by simp) h

theorem Framed.header (h : Header) : Framed.Statement (.header h) := by
  intro _ ss f bytes e
  cases e
  exact ⟨h, header_read_bytes h, Or.inl rfl⟩

theorem Framed.openSession : Framed.Statement (.openSession) := by
  intro _ ss f bytes h
  cases h

theorem Framed.enable (reportId : Byte) (intervalMillis : Nat) (specificConfig : Word32) : Framed.Statement (.enable reportId intervalMillis specificConfig) := by
  intro _ ss f bytes h
  cases h

theorem Framed.poll : Framed.Statement (.poll) := by
  intro _ ss f bytes h
  cases h

theorem Framed.resetSequence : Framed.Statement (.resetSequence) := by
  intro _ ss f bytes h
  cases h

theorem Framed.drain : Framed.Statement (.drain) := by
  intro _ ss f bytes h
  cases h

theorem Framed.replay : Framed.Statement (.replay) := by
  intro _ ss f bytes h
  cases h

theorem Framed.account (failedNow : Bool) : Framed.Statement (.account failedNow) := by
  intro _ ss f bytes h
  cases h

theorem Framed.frame (channel sequence : Byte) (payload : Bytes) : Framed.Statement (.frame channel sequence payload) := by
  intro _ ss f bytes h
  cases h

theorem Framed.send (channel : Byte) (payload : Bytes) : Framed.Statement (.send channel payload) := by
  intro _ ss f bytes h
  cases h

theorem Framed.deframe : Framed.Statement (.deframe) := by
  intro _ ss f bytes h
  cases h

theorem Framed.nextSequence (channel : Byte) : Framed.Statement (.nextSequence channel) := by
  intro _ ss f bytes h
  cases h

theorem Framed.decode (channel : Byte) (payload : Bytes) : Framed.Statement (.decode channel payload) := by
  intro _ ss f bytes h
  cases h

theorem Framed.buildSetFeature (reportId : Byte) (intervalMillis : Nat) (specificConfig : Word32) : Framed.Statement (.buildSetFeature reportId intervalMillis specificConfig) := by
  intro _ ss f bytes h
  cases h

theorem Framed.buildSoftReset : Framed.Statement (.buildSoftReset) := by
  intro _ ss f bytes h
  cases h

theorem Framed.buildProductIdRequest : Framed.Statement (.buildProductIdRequest) := by
  intro _ ss f bytes h
  cases h

theorem Framed.dequantize (raw : Word16) (q : Int) : Framed.Statement (.dequantize raw q) := by
  intro _ ss f bytes h
  cases h

end Sys2Proof.Laws
end

