-- ==== Sys2Proof/Laws/Dispatch.lean ====
section
/-! SUPPORT. The dispatch on numbers, and the bytes of a packet taken apart. -/

namespace Sys2Proof

/-- The dispatch of a payload that is not empty, on the numbers of R112. -/
theorem classify_cons (channel a : Byte) (rest : Bytes) :
    classify channel (a :: rest) = some (
      if channel = 2#8 then if a = 0xF8#8 then .pidr else if a = 0xF1#8 then .cmdr else .ctrlOther
      else if channel = 3#8 then if a = 0xFB#8 then subReportRow (a :: rest)[5]? else .reportsOther
      else if channel = 0#8 then .ch0 else .chOther) := rfl

/-- The dispatch of a sub-report id that is present, on the numbers of R112. -/
theorem subReportRow_some (b : Byte) :
    subReportRow (some b) =
      if b = 1#8 then .accel else if b = 2#8 then .gyro else if b = 3#8 then .mag else if b = 4#8 then .linAccel
      else if b = 5#8 then .rotVec else if b = 8#8 then .gameRotVec else if b = 0x11#8 then .steps
      else if b = 0x13#8 then .stability else if b = 0x1E#8 then .activity else .subOther := rfl

/-- A string whose first 4 bytes read as a header has 4 bytes. -/
theorem header_of_take {bytes : Bytes} {h : Header} (e : Header.read (bytes.take 4) = some h) :
    ∃ l m c s rest, bytes = l :: m :: c :: s :: rest := by
  match bytes, e with
  | l :: m :: c :: s :: rest, _ => exact ⟨l, m, c, s, rest, rfl⟩
  | [], e => cases e
  | [_], e => cases e
  | [_, _], e => cases e
  | [_, _, _], e => cases e

/-- The fields of a header that 4 bytes read as (R90, R91). -/
theorem header_fields {l m c s : Byte} {h : Header} (e : Header.read [l, m, c, s] = some h) :
    h.length.toNat = m.toNat % 128 * 256 + l.toNat ∧ h.continuation = m.getLsbD 7 ∧ h.channel = c ∧ h.sequence = s := by
  cases e
  exact ⟨Laws.lengthOf_toNat l m, rfl, rfl, rfl⟩

end Sys2Proof
end

