-- ==== Sys2Proof/Laws/Exec.lean ====
section
/-! SUPPORT. Every instruction is one performed operation on the session and the transport. -/

namespace Sys2Proof.Machine

/-- A decode action on a retained payload, as an operation. -/
def actionOperation (action : Bytes → Session → DecodeOutcome × Session) (p : Bytes) (w : Work) : Run (Result × Work) :=
  .done (.decoded (decodeAction (action (p.take w.session.cfg.capacity)) w).1,
    (decodeAction (action (p.take w.session.cfg.capacity)) w).2)

/-- The operation that an instruction performs. -/
def operationOf : Instr → Work → Run (Result × Work)
  | .inPidr p => actionOperation actPidr p
  | .inCmdr p => actionOperation actCmdr p
  | .inCtrlOther p => actionOperation actCtrlOther p
  | .inAccel p => actionOperation actAccel p
  | .inGyro p => actionOperation actGyro p
  | .inMag p => actionOperation actMag p
  | .inLinAccel p => actionOperation actLinAccel p
  | .inRotVec p => actionOperation actRotVec p
  | .inGameRotVec p => actionOperation actGameRotVec p
  | .inSteps p => actionOperation actSteps p
  | .inStability p => actionOperation actStability p
  | .inActivity p => actionOperation actActivity p
  | .inSubOther p => actionOperation actSubOther p
  | .inReportsOther p => actionOperation actReportsOther p
  | .inCh0 p => actionOperation actCh0 p
  | .inChOther c p => actionOperation (actChOther c) p
  | .outSetf r ms c => fun w =>
    (sendOp Channel.control.code (setFeaturePayload r ms c) w).bind fun r => .done (.sent r.1, r.2)
  | .outSrst => fun w => (sendOp Channel.executable.code [softResetByte] w).bind fun r => .done (.sent r.1, r.2)
  | .outPidq => fun w =>
    (sendOp Channel.control.code [idProductIdRequest, 0x00] w).bind fun r => .done (.sent r.1, r.2)
  | .header h => fun w =>
    (afterProbe w.session.cfg h w.bus).bind fun d => .done (.deframed d.1, { w with bus := d.2 })
  | .openSession => fun w => (openOp w).bind fun r => .done (.host r.1, r.2)
  | .enable r ms c => fun w => (enableOp r ms c w).bind fun r => .done (.host r.1, r.2)
  | .poll => fun w => (pollOp w).bind fun r => .done (.polled r.1.1 r.1.2, r.2)
  | .resetSequence => fun w => (resetOp w).bind fun r => .done (.reset r.1, r.2)
  | .drain => fun w => (drainOp w.session.cfg w.bus).bind fun d => .done (.reset d.1, { w with bus := d.2 })
  | .replay => fun w => (replayOp w).bind fun r => .done (.replayed r.1, r.2)
  | .account failedNow => fun w => (accountOp failedNow w).bind fun r => .done (.accounted r.1, r.2)
  | .frame c q p => fun w => (frameOp c q p).bind fun bytes => .done (.bytes bytes, w)
  | .send c p => fun w => (sendOp c p w).bind fun r => .done (.sent r.1, r.2)
  | .deframe => fun w =>
    (deframeOp w.session.cfg w.bus).bind fun d => .done (.deframed d.1, { w with bus := d.2 })
  | .nextSequence c => fun w =>
    (nextSequenceOp c w.session).bind fun r => .done (.sequence r.1, { w with session := r.2 })
  | .decode c p => fun w => (decodeOp c p w).bind fun r => .done (.decoded r.1, r.2)
  | .buildSetFeature r ms c => fun w => (setFeatureOp r ms c).bind fun p => .done (.built p.1 p.2, w)
  | .buildSoftReset => fun w => .done (.built softResetPacket.1 softResetPacket.2, w)
  | .buildProductIdRequest => fun w => .done (.built productIdPacket.1 productIdPacket.2, w)
  | .dequantize raw q => fun w => (dequantizeOp raw q).bind fun bits => .done (.converted bits, w)

/-- An instruction is its operation, performed. -/
theorem exec_eq_perform (i : Instr) (s : State) : exec i s = perform s (operationOf i) := by cases i <;> rfl

/-- All that an instruction can answer with a next state. -/
theorem exec_next {i : Instr} {s t : State} : exec i s = .next t ↔ configWf s.session.cfg = true ∧
    ((∃ r, operationOf i ⟨s.session, s.bus⟩ = .done r ∧ t = s.after r.1 r.2.session r.2.bus) ∨
     (∃ f, operationOf i ⟨s.session, s.bus⟩ = .waits f ∧
       t = { s with bus := receiveAnswer s.bus,
                    inProgress := some { f with events := f.events.drop s.bus.history.length } })) := by
  rw [exec_eq_perform, perform_next]

/-- All that an instruction can answer with a next state in which it has returned. -/
theorem exec_returned {i : Instr} {s t : State} (h : exec i s = .next t) (hp : t.inProgress = none) :
    ∃ r, operationOf i ⟨s.session, s.bus⟩ = .done r ∧ t = s.after r.1 r.2.session r.2.bus := by
  obtain ⟨-, h | ⟨f, -, rfl⟩⟩ := exec_next.1 h
  · exact h
  · cases hp

/-- No instruction changes what the host does next. -/
theorem exec_pending {i : Instr} {s t : State} (h : exec i s = .next t) : t.pending = s.pending := by
  obtain ⟨-, ⟨r, -, rfl⟩ | ⟨f, -, rfl⟩⟩ := exec_next.1 h <;> rfl

end Sys2Proof.Machine
end

