-- ==== Sys2Proof/Tests/Slice0.lean ====
section
/-! SUPPORT. Tests: ill-formed terms that WellFormed refuses, words written out from the encodings of R112, the vectors
of 95_test_vectors.md one step at a time, and a witness for the hypotheses of every obligation. -/

namespace Sys2Proof.Tests

open Sys2Proof.Machine

/-! ### Helpers -/

/-- `Ready` as the accounting vectors start (95_test_vectors.md section 2.8). -/
def ready : Session :=
  { Session.reset with fsm := .ready, handshakeComplete := true, seq := #v[0, 1, 1, 0, 0, 0] }

/-- `AwaitingHandshake` as P1 leaves it after `open`. -/
def waiting : Session := { Session.reset with fsm := .awaitingHandshake, seq := #v[0, 0, 1, 0, 0, 0] }

/-- A state with this session whose transport gives these answers. -/
def given (s : Session) (answers : List Answer) : State :=
  { State.reset with session := s, bus := { answers := answers, nextFree := 0, silent := false, history := [] } }

/-- The result of an operation that returned. -/
def resultOf : Host.Outcome State Fault Refusal → Option Result
  | .next t => if t.inProgress.isNone then some t.returned else none
  | _ => none

/-- The session after an operation. -/
def sessionOf : Host.Outcome State Fault Refusal → Option Session
  | .next t => some t.session
  | _ => none

/-- The event history after an operation. -/
def historyOf : Host.Outcome State Fault Refusal → Option (List Event)
  | .next t => some t.bus.history
  | _ => none

/-- Why an operation was refused. -/
def refusalOf : Host.Outcome State Fault Refusal → Option Refusal
  | .refused r => some r
  | _ => none

/-- An empty probe. -/
abbrev idle : Answer := .ok [0x00, 0x00, 0x00, 0x00]

/-! ### WellFormed refuses an ill-formed term at each of its checks (R112, R95, R104, R135) -/

theorem test_wf_refuses_empty_payload : (Instr.inCh0 []).wellFormed = false := by decide
theorem test_wf_refuses_long_payload : payloadInRange (List.replicate 32764 0) = false := by
  rw [payloadInRange, List.length_replicate]; decide
theorem test_wf_accepts_longest_payload : payloadInRange (List.replicate 32763 0) = true := by
  rw [payloadInRange, List.length_replicate]; decide
theorem test_wf_refuses_other_ids :
    (Instr.inPidr [0xF1]).wellFormed = false ∧ (Instr.inCmdr [0xF8]).wellFormed = false ∧
    (Instr.inCtrlOther [0xF8]).wellFormed = false ∧ (Instr.inCtrlOther [0xF1]).wellFormed = false ∧
    (Instr.inReportsOther [0xFB]).wellFormed = false := by decide
theorem test_wf_refuses_other_sub_reports :
    (Instr.inAccel (dispatchPayload 0xFB 0x02)).wellFormed = false ∧
    (Instr.inGyro (dispatchPayload 0xFB 0x01)).wellFormed = false ∧
    (Instr.inMag (dispatchPayload 0xFB 0x04)).wellFormed = false ∧
    (Instr.inLinAccel (dispatchPayload 0xFB 0x03)).wellFormed = false ∧
    (Instr.inRotVec (dispatchPayload 0xFB 0x08)).wellFormed = false ∧
    (Instr.inGameRotVec (dispatchPayload 0xFB 0x05)).wellFormed = false ∧
    (Instr.inSteps (dispatchPayload 0xFB 0x13)).wellFormed = false ∧
    (Instr.inStability (dispatchPayload 0xFB 0x1E)).wellFormed = false ∧
    (Instr.inActivity (dispatchPayload 0xFA 0x1E)).wellFormed = false ∧
    (Instr.inSubOther (dispatchPayload 0xFB 0x1E)).wellFormed = false := by decide
theorem test_wf_refuses_short_input_report : (Instr.inAccel [0xFB, 0, 0, 0, 0]).wellFormed = false := by decide
theorem test_wf_refuses_named_channels :
    (Instr.inChOther 0 [1]).wellFormed = false ∧ (Instr.inChOther 2 [1]).wellFormed = false ∧
    (Instr.inChOther 3 [1]).wellFormed = false ∧ (Instr.inChOther 1 [1]).wellFormed = true := by decide
theorem test_wf_accepts_absent_sub_report : (Instr.inSubOther [0xFB, 0, 0, 0, 0]).wellFormed = true := by decide

/-! ### Decoding: a word of every constructor that has one, written out from R90, R99 to R101, R111, R112 -/

theorem test_decode_pidr :
    decode .inbound [0x08, 0x00, 0x02, 0x01, 0xF8, 0x00, 0x03, 0x02] = .ok (.inPidr [0xF8, 0x00, 0x03, 0x02]) := by
  decide
theorem test_decode_cmdr :
    decode .inbound [0x0A, 0x00, 0x02, 0x00, 0xF1, 0x00, 0x07, 0x00, 0x00, 0x01] =
      .ok (.inCmdr [0xF1, 0x00, 0x07, 0x00, 0x00, 0x01]) := by decide
theorem test_decode_ctrl_other :
    decode .inbound [0x07, 0x00, 0x02, 0x00, 0xF2, 0x00, 0x07] = .ok (.inCtrlOther [0xF2, 0x00, 0x07]) := by decide
theorem test_decode_accel :
    decode .inbound [0x13, 0x00, 0x03, 0x2A, 0xFB, 0x10, 0x27, 0x00, 0x00, 0x01, 0x07, 0x01, 0x00, 0x64, 0x00, 0xC8,
      0x00, 0x2C, 0x01] = .ok (.inAccel [0xFB, 0x10, 0x27, 0x00, 0x00, 0x01, 0x07, 0x01, 0x00, 0x64, 0x00, 0xC8, 0x00,
      0x2C, 0x01]) := by decide
theorem test_decode_input_report_words :
    decodeTableWord 24 0x03FB02 = some (.inGyro (dispatchPayload 0xFB 0x02)) ∧
    decodeTableWord 24 0x03FB03 = some (.inMag (dispatchPayload 0xFB 0x03)) ∧
    decodeTableWord 24 0x03FB04 = some (.inLinAccel (dispatchPayload 0xFB 0x04)) ∧
    decodeTableWord 24 0x03FB05 = some (.inRotVec (dispatchPayload 0xFB 0x05)) ∧
    decodeTableWord 24 0x03FB08 = some (.inGameRotVec (dispatchPayload 0xFB 0x08)) ∧
    decodeTableWord 24 0x03FB11 = some (.inSteps (dispatchPayload 0xFB 0x11)) ∧
    decodeTableWord 24 0x03FB13 = some (.inStability (dispatchPayload 0xFB 0x13)) ∧
    decodeTableWord 24 0x03FB1E = some (.inActivity (dispatchPayload 0xFB 0x1E)) ∧
    decodeTableWord 24 0x03FB06 = some (.inSubOther (dispatchPayload 0xFB 0x06)) ∧
    decodeTableWord 24 0x03FA00 = some (.inReportsOther (dispatchPayload 0xFA 0x00)) ∧
    decodeTableWord 24 0x00F801 = some (.inCh0 (dispatchPayload 0xF8 0x01)) ∧
    decodeTableWord 24 0xFF0000 = some (.inChOther 0xFF (dispatchPayload 0x00 0x00)) := by decide
theorem test_decode_control_words :
    decodeTableWord 24 0x02F800 = some (.inPidr (dispatchPayload 0xF8 0x00)) ∧
    decodeTableWord 24 0x02F1FF = some (.inCmdr (dispatchPayload 0xF1 0xFF)) ∧
    decodeTableWord 24 0x02FC00 = some (.inCtrlOther (dispatchPayload 0xFC 0x00)) ∧
    decodeTableWord 24 0x03FB01 = some (.inAccel (dispatchPayload 0xFB 0x01)) := by decide
theorem test_decode_set_feature_word :
    decodeTableWord 168 0x01020304000000000000271000000005FD01020015 = some (.outSetf 0x05 10000 0x01020304) := by
  decide
theorem test_decode_set_feature :
    decode .outbound [0x15, 0x00, 0x02, 0x01, 0xFD, 0x08, 0x00, 0x00, 0x00, 0x20, 0x4E, 0x00, 0x00, 0x00, 0x00, 0x00,
      0x00, 0x04, 0x03, 0x02, 0x01] = .ok (.outSetf 0x08 20000 0x01020304) := by decide
theorem test_decode_short_outbound :
    decodeTableWord 40 0x0100010005 = some .outSrst ∧ decodeTableWord 48 0x00F900020006 = some .outPidq := by decide
theorem test_decode_header : decodeTableWord 32 0x2A038013 = some (.header ⟨19, true, 3, 0x2A⟩) := by decide
theorem test_decode_rejects_by_name :
    decode .inbound [0x05, 0x00, 0x02] = .error .noHeader ∧
    decode .inbound [0x06, 0x00, 0x02, 0x00, 0xF8] = .error .lengthMismatch ∧
    decode .inbound [0x04, 0x00, 0x02, 0x00] = .error .emptyPacket ∧
    decode .outbound [0x05, 0x80, 0x01, 0x00, 0x01] = .error .continuationSet ∧
    decode .outbound [0x05, 0x00, 0x01, 0x00, 0x02] = .error .notOutbound ∧
    decode .header [0x05, 0x00, 0x01] = .error .noHeader := by decide
theorem test_encode_header_flag : encode (.header ⟨19, true, 3, 0x2A⟩) 0 = some (.header, [0x13, 0x80, 0x03, 0x2A]) := by
  decide
theorem test_fetched_word_runs :
    resultOf (step (State.reset.withFetchWord 24 0x03FB13)) = some (.decoded (.report .stability)) := by decide
theorem test_host_line_enable : parseHostLine ("enable 0x05 10 => ok ; E5".toList) = some (.enable 0x05 10 0) := by
  decide

/-! ### Inbound rows (vectors of section 2.5) -/

theorem test_pidr : (sessionOf (exec (.inPidr [0xF8]) State.reset)).map (·.handshakeComplete) = some true := by decide
theorem test_cmdr_calibrate :
    (sessionOf (exec (.inCmdr [0xF1, 0, 7, 0, 0, 0xFF, 0, 0]) State.reset)).map (·.calib) = some (some ⟨255⟩) := by
  decide
theorem test_cmdr_short : resultOf (exec (.inCmdr [0xF1, 0, 7, 0, 0]) State.reset) = some (.decoded .incomplete) := by
  decide
theorem test_ctrl_other :
    resultOf (exec (.inCtrlOther [0xFC, 1, 0]) State.reset) = some (.decoded .unrecognizedReport) := by decide
theorem test_accel :
    (sessionOf (exec (.inAccel [0xFB, 0x10, 0x27, 0, 0, 1, 7, 0xFD, 0, 0x64, 0, 0xC8, 0, 0x2C, 1, 0x99, 0x99])
      State.reset)).map (·.accel) = some (some ⟨1, 10000, 100, 200, 300⟩) := by decide
theorem test_accel_short :
    exec (.inAccel [0xFB, 0, 0, 0, 0, 1, 0, 0, 0, 1, 0, 2, 0, 3]) State.reset =
      .next (State.reset.after (.decoded .incomplete) Session.reset ⟨[], 0, false, [.raised .incomplete]⟩) := by rfl
/-- R185, R267: with a CAPACITY of 10 the retained prefix of a whole accelerometer report is too short. -/
theorem test_accel_small_capacity :
    exec (.inAccel (dispatchPayload 0xFB 0x01))
        { State.reset with session := { Session.reset with cfg := { Config.default with capacity := 10 } } } =
      .next { State.reset with
        session := { Session.reset with cfg := { Config.default with capacity := 10 } }
        bus := ⟨[], 0, false, [.raised .incomplete]⟩, returned := .decoded .incomplete } := by rfl
theorem test_gyro :
    (sessionOf (exec (.inGyro [0xFB, 0, 0, 0, 0, 2, 0, 3, 0, 0, 2, 0, 0xFE, 0xFF, 0xFF]) State.reset)).map (·.gyro) =
      some (some ⟨3, 0, 512, 0xFE00, 0xFFFF⟩) := by decide
theorem test_mag :
    (sessionOf (exec (.inMag [0xFB, 0xFF, 0xFF, 0xFF, 0xFF, 3, 0, 2, 0, 0x10, 0, 0xF0, 0xFF, 0, 0x80])
      State.reset)).map (·.mag) = some (some ⟨2, 4294967295, 16, 0xFFF0, 0x8000⟩) := by decide
theorem test_lin_accel :
    (sessionOf (exec (.inLinAccel [0xFB, 1, 0, 0, 0, 4, 0, 0, 0, 0, 1, 0, 0xFF, 0xFF, 0x7F]) State.reset)).map
      (·.linAccel) = some (some ⟨0, 1, 256, 0xFF00, 32767⟩) := by decide
theorem test_rot_vec :
    (sessionOf (exec (.inRotVec [0xFB, 0xE8, 3, 0, 0, 5, 0, 2, 0, 0, 0, 0, 0, 0, 0, 0, 0x40, 0, 0x10])
      State.reset)).map (·.quat) = some (some ⟨2, 1000, 5, 0, 0, 0, some 16384, some 4096⟩) := by decide
theorem test_rot_vec_half_word :
    (sessionOf (exec (.inRotVec [0xFB, 0xE8, 3, 0, 0, 5, 0, 2, 0, 1, 0, 2, 0, 3, 0, 4]) State.reset)).map (·.quat) =
      some (some ⟨2, 1000, 5, 1, 2, 3, none, none⟩) := by decide
theorem test_game_rot_vec :
    (sessionOf (exec (.inGameRotVec [0xFB, 0, 0, 0, 0, 8, 0, 3, 0, 0, 0, 0, 0, 0, 0, 0, 0x40]) State.reset)).map
      (·.quat) = some (some ⟨3, 0, 8, 0, 0, 0, some 16384, none⟩) := by decide
theorem test_steps :
    (sessionOf (exec (.inSteps [0xFB, 0, 0, 0, 0, 0x11, 0, 1, 0, 0, 0, 0, 0, 0xFF, 0xFF]) State.reset)).map (·.steps) =
      some (some ⟨1, 0, 65535⟩) := by decide
theorem test_stability :
    (sessionOf (exec (.inStability [0xFB, 5, 0, 0, 0, 0x13, 0, 2, 0, 4, 0x77, 0x77]) State.reset)).map (·.stability) =
      some (some ⟨2, 5, 4⟩) := by decide
theorem test_activity :
    (sessionOf (exec (.inActivity [0xFB, 0, 0, 0, 0, 0x1E, 0, 2, 0, 0xEE, 1, 1, 2, 3, 4, 5, 6, 7, 8, 9, 0xAA])
      State.reset)).map (·.activity) = some (some ⟨2, 0, 1, #v[1, 2, 3, 4, 5, 6, 7, 8, 9]⟩) := by decide
theorem test_activity_partial :
    resultOf (exec (.inActivity [0xFB, 0, 0, 0, 0, 0x1E, 0, 1, 0, 0, 4, 0x0A, 0, 0, 0, 0x5A, 0, 0, 0]) State.reset) =
      some (.decoded .incomplete) := by decide
theorem test_sub_other :
    resultOf (exec (.inSubOther [0xFB, 0, 0, 0, 0, 6]) State.reset) = some (.decoded .unrecognizedReport) ∧
    resultOf (exec (.inSubOther [0xFB, 0, 0, 0, 0]) State.reset) = some (.decoded .incomplete) := by decide
theorem test_reports_other :
    resultOf (exec (.inReportsOther [0xF8]) State.reset) = some (.decoded .unrecognizedReport) := by decide
theorem test_ch0 : resultOf (exec (.inCh0 [0xF8]) State.reset) = some (.decoded .unrecognizedReport) := by decide
theorem test_ch_other : resultOf (exec (.inChOther 255 [0xF8]) State.reset) = some (.decoded .dataPresent) := by decide
theorem test_decode_dispatches :
    resultOf (exec (.decode 4 [0xFB, 0, 0, 0, 0, 1, 0, 0, 0, 1, 0, 2, 0, 3, 0]) State.reset) =
      some (.decoded .dataPresent) ∧
    resultOf (exec (.decode 2 [0xF1, 0, 6]) State.reset) = some (.decoded (.commandAck 6)) := by decide
theorem test_decode_over_capacity :
    (let cfg : Config := { Config.default with capacity := 1 }
     refusalOf (exec (.decode 1 [0, 0]) (given { ready with cfg := cfg } []))) = some .payloadOutOfDomain := by decide

/-! ### Framer, sequencer, encoder, converter (sections 2.1 to 2.4, 2.6, 2.7) -/

theorem test_frame : resultOf (exec (.frame 5 7 [0, 1, 2]) State.reset) = some (.bytes [7, 0, 5, 7, 0, 1, 2]) := by
  decide
theorem test_frame_carry :
    frameOp 2 9 (List.replicate 252 0) = .done ([0x00, 0x01, 0x02, 0x09] ++ List.replicate 252 0) := by
  rw [frameOp, List.length_replicate]; rfl
theorem test_send :
    (let o := exec (.send 2 [0xF9, 0]) (given Session.reset [.error])
     (resultOf o, (sessionOf o).map (·.seq), historyOf o)) =
      (some (.sent false), some #v[0, 0, 1, 0, 0, 0],
       some [.write [0x06, 0x00, 0x02, 0x00, 0xF9, 0x00] false, .raised .transportError]) := by decide
theorem test_send_over_ceiling :
    refusalOf (exec (.send 2 (List.replicate 29 0)) State.reset) = some .frameOverCeiling := by decide
theorem test_deframe_chunks :
    (let o := exec .deframe (given { Session.reset with cfg := { Config.default with ceiling := 21 } }
        [.ok [0x18, 0x80, 0x03, 0x7F], .ok ([0xFF, 0xFF, 0xEE, 0xDD] ++ List.replicate 17 0x41),
         .ok [0, 0, 0, 0, 0x5C, 0x5D, 0x5E]])
     (resultOf o, (historyOf o).map (·.length))) =
      (some (.deframed (.packet 3 0x7F (List.replicate 17 0x41 ++ [0x5C, 0x5D, 0x5E]) false)), some 3) := by decide
theorem test_deframe_overflow :
    (let o := exec .deframe (given { Session.reset with cfg := { Config.default with capacity := 1 } }
        [.ok [19, 0, 3, 0x10], .ok [19, 0, 3, 0x10, 1, 8, 15, 22, 29, 36, 43, 50, 57, 64, 71, 78, 85, 92, 99]])
     (resultOf o, (historyOf o).map (·.getLast?))) =
      (some (.deframed (.packet 3 0x10 [1] true)), some (some (.raised .bufferOverflow))) := by decide
theorem test_header_is_no_data :
    resultOf (exec (.header ⟨4, true, 3, 1⟩) State.reset) = some (.deframed .noData) := by decide
theorem test_header_reads_chunk :
    resultOf (exec (.header ⟨5, true, 4, 9⟩) (given Session.reset [.ok [5, 0, 4, 9, 0x77]])) =
      some (.deframed (.packet 4 9 [0x77] false)) := by decide
theorem test_next_sequence :
    (let o := exec (.nextSequence 3) (given { Session.reset with seq := #v[1, 2, 3, 255, 5, 6] } [])
     (resultOf o, (sessionOf o).map (·.seq))) = (some (.sequence 255), some #v[1, 2, 3, 0, 5, 6]) := by decide
theorem test_next_sequence_refused : refusalOf (exec (.nextSequence 6) State.reset) = some .noSuchChannel := by decide
theorem test_build_set_feature :
    resultOf (exec (.buildSetFeature 0xFF 4294967 0xFFFFFFFF) State.reset) = some (.built 2
      [0xFD, 0xFF, 0, 0, 0, 0xD8, 0xFE, 0xFF, 0xFF, 0, 0, 0, 0, 0xFF, 0xFF, 0xFF, 0xFF]) := by decide
theorem test_build_set_feature_refused :
    refusalOf (exec (.buildSetFeature 5 4294968 0) State.reset) = some .intervalTooLong := by decide
theorem test_build_soft_reset : resultOf (exec .buildSoftReset State.reset) = some (.built 1 [0x01]) := by decide
theorem test_build_product_id :
    resultOf (exec .buildProductIdRequest State.reset) = some (.built 2 [0xF9, 0x00]) := by decide
theorem test_out_setf :
    historyOf (exec (.outSetf 0x05 10000 0) (given ready [.ok []])) = some [.write
      [0x15, 0, 2, 1, 0xFD, 5, 0, 0, 0, 0x10, 0x27, 0, 0, 0, 0, 0, 0, 0, 0, 0, 0] true] := by decide
theorem test_out_srst :
    historyOf (exec .outSrst (given ready [.ok []])) = some [.write [5, 0, 1, 1, 1] true] := by decide
theorem test_out_pidq :
    historyOf (exec .outPidq (given Session.reset [.ok []])) = some [.write [6, 0, 2, 0, 0xF9, 0] true] := by decide
theorem test_dequantize_normal :
    dequantizeBits 100 8 = 0x3EC80000 ∧ dequantizeBits 0xFFFF 9 = 0xBB000000 ∧
    dequantizeBits 11585 14 = 0x3F350400 ∧ dequantizeBits 0x8000 (-112) = 0xFF000000 := by decide
theorem test_dequantize_edges :
    resultOf (exec (.dequantize 1 127) State.reset) = some (.converted 0x00400000) ∧
    resultOf (exec (.dequantize 32767 127) State.reset) = some (.converted 0x077FFE00) ∧
    refusalOf (exec (.dequantize 1 128) State.reset) = some .exponentOutOfRange ∧
    refusalOf (exec (.dequantize 1 (-113)) State.reset) = some .exponentOutOfRange := by decide

/-! ### Session control (sections 2.8 and 3) -/

/-- P1 without the packets: `open` on an idle hub. -/
theorem test_open_idle : (let o := exec .openSession (given Session.reset [.ok [], idle, idle, .ok []])
    (resultOf o, (sessionOf o).map (fun s => (s.fsm, s.seq)), historyOf o)) =
    (some (.host .ok), some (.awaitingHandshake, #v[0, 0, 1, 0, 0, 0]),
     some [.write [0x05, 0x00, 0x01, 0x00, 0x01] true, .read 4 (some [0, 0, 0, 0]), .raised .emptyPacket,
       .read 4 (some [0, 0, 0, 0]), .raised .emptyPacket, .write [0x06, 0x00, 0x02, 0x00, 0xF9, 0x00] true]) := by
  decide

theorem test_open_aborts :
    (let o := exec .openSession (given Session.reset [.error])
     (resultOf o, (sessionOf o).map (fun s => (s.fsm, s.seq)))) =
      (some (.host .failed), some (.resetting, #v[0, 1, 0, 0, 0, 0])) := by decide
/-- A1. -/
theorem test_enable_absorbs :
    (let o := exec (.enable 0x05 10 0) (given ready [.error])
     (resultOf o, (sessionOf o).map (fun s => (s.seq, s.failCount, s.active)))) =
      (some (.host .ok), some (#v[0, 1, 2, 0, 0, 0], 1, [⟨5, 10, 0⟩])) := by decide
/-- The third failure of A3. -/
theorem test_enable_trips :
    (let o := exec (.enable 0x03 50 0)
        (given { ready with failCount := 2, seq := #v[0, 1, 5, 0, 0, 0], active := [⟨2, 20, 0⟩, ⟨3, 40, 0⟩, ⟨5, 10, 0⟩] }
          [.error, .ok [], idle, idle, .ok []])
     (resultOf o, (sessionOf o).map (fun s => (s.fsm, s.seq, s.failCount, s.active)))) =
      (some (.host .failed), some (.awaitingHandshake, #v[0, 0, 1, 0, 0, 0], 0,
        [⟨2, 20, 0⟩, ⟨3, 50, 0⟩, ⟨5, 10, 0⟩])) := by decide
/-- A5. -/
theorem test_poll_handshake_replays :
    (let o := exec .poll (given
        { waiting with active := [⟨2, 20, 0⟩, ⟨3, 50, 0⟩, ⟨5, 10, 0⟩] }
        [.ok [5, 0, 2, 0], .ok [5, 0, 2, 0, 0xF8], .ok [], .error, .ok []])
     (resultOf o, (sessionOf o).map (fun s => (s.fsm, s.seq, s.failCount)), (historyOf o).map (·.length))) =
      (some (.polled .newData (.decoded .handshakeAck)), some (.ready, #v[0, 0, 4, 0, 0, 0], 1), some 6) := by decide
/-- A6. -/
theorem test_poll_trips_at_once :
    (let o := exec .poll (given { ready with cfg := { Config.default with failThreshold := 1 } }
        [.error, .ok [], idle, idle, .ok []])
     (resultOf o, (sessionOf o).map (fun s => (s.fsm, s.handshakeComplete)))) =
      (some (.polled .failed .transportError), some (.awaitingHandshake, false)) := by decide
/-- S8. -/
theorem test_reset_sequence :
    (let o := exec .resetSequence (given { ready with seq := #v[0, 1, 5, 0, 0, 0] } [.ok [], idle, idle, .ok []])
     (resultOf o, (sessionOf o).map (·.seq), (historyOf o).map (·.head?))) =
      (some (.reset .completed), some #v[0, 0, 1, 0, 0, 0], some (some (.write [5, 0, 1, 1, 1] true))) := by decide
/-- S7. -/
theorem test_reset_sequence_keeps_table :
    (sessionOf (exec .resetSequence (given { Session.reset with
        cfg := { Config.default with seqClearOnSoftReset := false }, seq := #v[0, 7, 9, 0, 0, 0] }
        [.ok [], idle, idle, .ok []]))).map (·.seq) = some #v[0, 8, 10, 0, 0, 0] := by decide
/-- A9. -/
theorem test_drain_counts_consecutive :
    (let o := exec .drain (given ready [idle, .ok [5, 0, 1, 0], .ok [5, 0, 1, 0, 1], idle, idle])
     (resultOf o, (historyOf o).map (fun h => (h.filter (· == .raised .emptyPacket)).length))) =
      (some (.reset .completed), some 3) := by decide
theorem test_drain_aborts : resultOf (exec .drain (given ready [idle, .error])) = some (.reset .aborted) := by decide
/-- The two replay writes of P3. -/
theorem test_replay :
    (let o := exec .replay (given { ready with seq := #v[0, 0, 1, 0, 0, 0], active := [⟨1, 50, 0⟩, ⟨5, 10, 0⟩] }
        [.ok [], .ok []])
     (resultOf o, historyOf o)) = (some (.replayed false), some
      [.write [0x15, 0, 2, 1, 0xFD, 1, 0, 0, 0, 0x50, 0xC3, 0, 0, 0, 0, 0, 0, 0, 0, 0, 0] true,
       .write [0x15, 0, 2, 2, 0xFD, 5, 0, 0, 0, 0x10, 0x27, 0, 0, 0, 0, 0, 0, 0, 0, 0, 0] true]) := by decide
/-- The same with another REPLAY_ORDER. -/
theorem test_replay_order :
    (let cfg : Config := { Config.default with replayOrders := [[5, 1]] }
     replayEntries { ready with cfg := cfg, active := [⟨1, 50, 0⟩, ⟨5, 10, 0⟩] }) = [⟨5, 10, 0⟩, ⟨1, 50, 0⟩] := by decide
theorem test_account :
    (sessionOf (exec (.account true) (given ready []))).map (·.failCount) = some 1 ∧
    (sessionOf (exec (.account false) (given { ready with failCount := 2 } []))).map (·.failCount) = some 0 := by decide
theorem test_waiting_changes_nothing :
    (sessionOf (exec .openSession State.reset), historyOf (exec .openSession State.reset),
     resultOf (exec .openSession State.reset)) = (some Session.reset, some [], none) := by decide
/-- The read port at the end of P2. -/
theorem test_read_port :
    readPort .accel { ready with accel := some ⟨1, 10000, 100, 200, 300⟩ } =
      some (.triplet ⟨1, 10000, 100, 200, 300⟩ 0x3EC80000 0x3F480000 0x3F960000) ∧
    readPort .quatReal { ready with quat := some ⟨2, 1000, 5, 0, 0, 0, some 16384, some 4096⟩ } =
      some (.physical 0x3F800000) ∧
    readPort .quatRadAcc { ready with quat := some ⟨2, 1000, 5, 0, 0, 0, some 16384, some 4096⟩ } = none := by decide

/-! ### Witnesses: a state and operands that meet the hypotheses of each obligation, clause by clause -/

/-- The configuration at power-on is well formed, a hypothesis of most statements. -/
theorem witness_wellFormedConfig : configWf State.reset.session.cfg = true := by decide

/-- The configurations at the bounds of R7. -/
theorem witness_configBounds :
    configWf { Config.default with ceiling := 21, capacity := 1, failThreshold := 1, qAccel := 0 } = true ∧
    configWf { Config.default with ceiling := 32767, qRot := 15, qRotAcc := some 15 } = true ∧
    configWf { Config.default with ceiling := 20 } = false ∧ configWf { Config.default with ceiling := 32768 } = false ∧
    configWf { Config.default with capacity := 0 } = false ∧ configWf { Config.default with qRotAcc := some 16 } = false := by
  decide

/-- The state whose host does this next. -/
def doing (s : State) (a : Action) : State := { s with pending := [a] }

/-- The configuration a session is constructed with may be the default. -/
theorem witness_ResetStateIsPowerOn : configWf Config.default = true := by decide

theorem witness_StepRunsDecodedInstruction :
    (doing State.reset (.wire .outbound [0x05, 0x00, 0x01, 0x00, 0x01])).pending =
      .wire .outbound [0x05, 0x00, 0x01, 0x00, 0x01] :: [] ∧
    decode .outbound [0x05, 0x00, 0x01, 0x00, 0x01] = .ok .outSrst ∧
    (doing State.reset (.wire .header [1, 2, 3])).pending = .wire .header [1, 2, 3] :: [] ∧
    decode .header [1, 2, 3] = .error .noHeader := by decide

theorem witness_StepRunsCalledOperation :
    (doing State.reset (.call .deframe)).pending = .call .deframe :: [] ∧ Instr.deframe.wellFormed = true ∧
    (doing State.reset (.call (.inPidr [0xF9]))).pending = .call (.inPidr [0xF9]) :: [] ∧
    (Instr.inPidr [0xF9]).wellFormed = false := by decide

theorem witness_StepIdlesAndReads :
    State.reset.pending = [] ∧ (doing State.reset (.read .fsm)).pending = .read .fsm :: [] ∧
    configWf State.reset.session.cfg = true ∧ readPort .fsm Session.reset = some (.fsm .uninitialized) ∧
    (doing State.reset (.read .accel)).pending = .read .accel :: [] ∧ readPort .accel Session.reset = none := by decide

/-- A session with every slot written and the radian-accuracy exponent given. -/
def filled : Session :=
  { ready with
    cfg := { Config.default with qRotAcc := some 15 }
    accel := some ⟨1, 10000, 100, 200, 300⟩
    linAccel := some ⟨0, 1, 256, 0xFF00, 32767⟩
    gyro := some ⟨3, 0, 512, 0xFE00, 0xFFFF⟩
    mag := some ⟨2, 4294967295, 16, 0xFFF0, 0x8000⟩
    quat := some ⟨2, 1000, 5, 0, 0, 0, some 16384, some 4096⟩
    steps := some ⟨1, 0, 65535⟩
    stability := some ⟨2, 5, 4⟩
    activity := some ⟨2, 0, 1, #v[1, 2, 3, 4, 5, 6, 7, 8, 9]⟩
    calib := some ⟨255⟩ }

theorem witness_ReadPortGivesPhysicalValues :
    configWf filled.cfg = true ∧ filled.accel = some ⟨1, 10000, 100, 200, 300⟩ ∧
    filled.linAccel = some ⟨0, 1, 256, 0xFF00, 32767⟩ ∧ filled.gyro = some ⟨3, 0, 512, 0xFE00, 0xFFFF⟩ ∧
    filled.mag = some ⟨2, 4294967295, 16, 0xFFF0, 0x8000⟩ ∧
    filled.quat = some ⟨2, 1000, 5, 0, 0, 0, some 16384, some 4096⟩ ∧ filled.cfg.qRotAcc = some 15 ∧
    filled.steps = some ⟨1, 0, 65535⟩ ∧ filled.stability = some ⟨2, 5, 4⟩ ∧
    filled.activity = some ⟨2, 0, 1, #v[1, 2, 3, 4, 5, 6, 7, 8, 9]⟩ ∧ filled.calib = some ⟨255⟩ ∧
    ready.cfg.qRotAcc = none ∧ ready.accel = none ∧ ready.linAccel = none ∧ ready.gyro = none ∧ ready.mag = none ∧
    ready.quat = none ∧ ready.steps = none ∧ ready.stability = none ∧ ready.activity = none ∧ ready.calib = none ∧
    ({ filled with quat := some ⟨2, 1000, 8, 0, 0, 0, none, none⟩ } : Session).quat =
      some ⟨2, 1000, 8, 0, 0, 0, none, none⟩ := by decide

theorem witness_DecodeOfEncodeIsTheInstruction :
    (Instr.inChOther 255 [0xF8]).wellFormed = true ∧
    encode (.inChOther 255 [0xF8]) 7 = some (.inbound, [0x05, 0x00, 0xFF, 0x07, 0xF8]) ∧
    (Instr.outSetf 0xFF 4294967295 1).wellFormed = true ∧
    encode (.outSetf 0xFF 4294967295 1) 0 = some (.outbound, [0x15, 0, 2, 0, 0xFD, 0xFF, 0, 0, 0, 0xFF, 0xFF, 0xFF,
      0xFF, 0, 0, 0, 0, 1, 0, 0, 0]) := by decide

theorem witness_EncodeOfDecodeIsThePacket :
    decode .inbound [0x05, 0x80, 0x00, 0x09, 0x01] = .ok (.inCh0 [0x01]) ∧
    decode .header [0x00, 0x80, 0x03, 0x01] = .ok (.header ⟨0, true, 3, 1⟩) ∧
    decode .outbound [0x06, 0x00, 0x02, 0xFF, 0xF9, 0x00] = .ok .outPidq := by decide

theorem witness_DispatchIsTheFirstMatchingRow :
    ([0xFB] : Bytes) ≠ [] ∧ classify 3 [0xFB] = some .subOther ∧
    ([0xFB, 0, 0, 0, 0, 0x1E] : Bytes) ≠ [] ∧ classify 3 [0xFB, 0, 0, 0, 0, 0x1E] = some .activity := by decide

/-- A session that retains at most two payload bytes. -/
def small : Session := { ready with cfg := { Config.default with capacity := 2 } }

theorem witness_DecodeRunsItsRow :
    configWf small.cfg = true ∧ classify 2 [0xF8, 0] = some .pidr ∧ ([0xF8, 0] : Bytes).length ≤ small.cfg.capacity ∧
    small.cfg.capacity < ([0xF8, 0, 0] : Bytes).length := by decide

/-- A session that retains exactly the twenty bytes of R185. -/
def twenty : Session := { ready with cfg := { Config.default with capacity := 20 } }

theorem witness_TripletReportsWriteTheirSlots :
    configWf Session.reset.cfg = true ∧
    ((List.replicate 14 (0 : Byte)).take Session.reset.cfg.capacity).length < 15 ∧
    ((dispatchPayload 0xFB 0x01).take small.cfg.capacity).length < 15 ∧
    (dispatchPayload 0xFB 0x01).take 15 =
      0xFB :: 0 :: 0 :: 0 :: 0 :: 1 :: 0 :: 0 :: 0 :: 0 :: 0 :: 0 :: 0 :: 0 :: 0 :: [] := by decide

theorem witness_RotationReportsWriteTheQuaternion :
    configWf Session.reset.cfg = true ∧
    ((List.replicate 14 (0 : Byte)).take Session.reset.cfg.capacity).length < 15 ∧
    (List.replicate 19 (0 : Byte)).take Session.reset.cfg.capacity =
      0 :: 0 :: 0 :: 0 :: 0 :: 0 :: 0 :: 0 :: 0 :: 0 :: 0 :: 0 :: 0 :: 0 :: 0 :: [0, 0, 0, 0] ∧
    (([] : Bytes).length ≤ 1 ∧ ([4] : Bytes).length ≤ 1) ∧
    (([4, 0] : Bytes) = 4 :: 0 :: [] ∧ ([4, 0, 5] : Bytes) = 4 :: 0 :: [5] ∧ ([5] : Bytes).length ≤ 1) ∧
    ([4, 0, 5, 0] : Bytes) = 4 :: 0 :: 5 :: 0 :: [] := by decide

theorem witness_CounterAndClassifierReports :
    configWf twenty.cfg = true ∧ ((List.replicate 14 (0 : Byte)).take twenty.cfg.capacity).length < 15 ∧
    ((List.replicate 9 (0 : Byte)).take twenty.cfg.capacity).length < 10 ∧
    ((List.replicate 19 (0 : Byte)).take twenty.cfg.capacity).length < 20 ∧
    (List.replicate 15 (0 : Byte)).take twenty.cfg.capacity =
      0 :: 0 :: 0 :: 0 :: 0 :: 0 :: 0 :: 0 :: 0 :: 0 :: 0 :: 0 :: 0 :: 0 :: 0 :: [] ∧
    (List.replicate 10 (0 : Byte)).take twenty.cfg.capacity = 0 :: 0 :: 0 :: 0 :: 0 :: 0 :: 0 :: 0 :: 0 :: 0 :: [] ∧
    (List.replicate 21 (0 : Byte)).take twenty.cfg.capacity =
      0 :: 0 :: 0 :: 0 :: 0 :: 0 :: 0 :: 0 :: 0 :: 0 :: 0 :: 0 :: 0 :: 0 :: 0 :: 0 :: 0 :: 0 :: 0 :: 0 :: [] := by
  decide

theorem witness_HandshakeAndCommandRows :
    configWf twenty.cfg = true ∧ (6 : Byte) ≠ 7 ∧ (8 : Byte) ≠ 7 ∧
    ([0xF1, 0, 8] : Bytes).take twenty.cfg.capacity = 0xF1 :: 0 :: 8 :: [] ∧
    ([0xF1, 0, 7, 0, 0, 3] : Bytes).take twenty.cfg.capacity = 0xF1 :: 0 :: 7 :: 0 :: 0 :: 3 :: [] ∧
    (([0xF1, 0, 7, 0, 0, 3] : Bytes).take small.cfg.capacity).length < 3 ∧
    (([0xF1, 0, 7, 0, 0] : Bytes).take twenty.cfg.capacity)[2]? = some 7 ∧
    (([0xF1, 0, 7, 0, 0] : Bytes).take twenty.cfg.capacity).length < 6 := by decide

theorem witness_UnknownPacketsWriteNothing :
    configWf small.cfg = true ∧ 1 ≤ ([0xF2, 0] : Bytes).length ∧ ([0xF2, 0] : Bytes).length ≤ small.cfg.capacity ∧
    ([0xF2, 0] : Bytes)[0]? ≠ some 0xF8 ∧ ([0xF2, 0] : Bytes)[0]? ≠ some 0xF1 ∧ ([0xF2, 0] : Bytes)[0]? ≠ some 0xFB ∧
    ([0xFB, 0, 0, 0, 0, 6] : Bytes)[0]? = some 0xFB ∧ ([0xFB, 0, 0, 0, 0, 6] : Bytes)[5]? = some 6 ∧
    (6 : Byte) ∉ ([0x01, 0x02, 0x03, 0x04, 0x05, 0x08, 0x11, 0x13, 0x1E] : Bytes) ∧
    ([0xFB, 0, 0, 0, 0, 6] : Bytes).length ≤ Session.reset.cfg.capacity ∧ 6 ≤ Session.reset.cfg.capacity ∧
    ((1 : Byte) ≠ 0 ∧ (1 : Byte) ≠ 2 ∧ (1 : Byte) ≠ 3) ∧ ((255 : Byte) ≠ 0 ∧ (255 : Byte) ≠ 2 ∧ (255 : Byte) ≠ 3) := by
  decide

theorem witness_ShortPayloadsAreIncomplete :
    configWf small.cfg = true ∧ configWf twenty.cfg = true ∧ classify 2 [0xF1, 0, 7] = some .cmdr ∧
    (([0xF1, 0, 7] : Bytes).take small.cfg.capacity).length < 3 ∧
    (classify 2 [0xF1, 0, 7, 0, 0] = some .cmdr ∧
      (([0xF1, 0, 7, 0, 0] : Bytes).take twenty.cfg.capacity)[2]? = some 7) ∧
    classify 3 [0xFB, 0, 0, 0, 0] = some .subOther ∧
    (classify 3 (dispatchPayload 0xFB 0x01) = some .accel ∧
      ((dispatchPayload 0xFB 0x01).take small.cfg.capacity).length < 15) ∧
    (classify 3 ((dispatchPayload 0xFB 0x13).take 9) = some .stability ∧
      (((dispatchPayload 0xFB 0x13).take 9).take twenty.cfg.capacity).length < 10) ∧
    (classify 3 ((dispatchPayload 0xFB 0x1E).take 19) = some .activity ∧
      (((dispatchPayload 0xFB 0x1E).take 19).take twenty.cfg.capacity).length < 20) := by decide

theorem witness_DecodeWritesOneSlotOrNothing : ∃ t, exec (.decode 3 (dispatchPayload 0xFB 0x13)) State.reset = .next t ∧
    t.returned = .decoded (.report .stability) := ⟨_, rfl, rfl⟩

theorem witness_OverflowNeverChangesAnOutcome :
    configWf small.cfg = true ∧ 20 ≤ twenty.cfg.capacity ∧
    classify 3 (dispatchPayload 0xFB 0x1E ++ [0xAA]) = some .activity ∧
    twenty.cfg.capacity < (dispatchPayload 0xFB 0x1E ++ [0xAA]).length ∧
    ∃ t, exec (.inActivity (dispatchPayload 0xFB 0x1E ++ [0xAA])) (given twenty []) = .next t :=
  ⟨by decide, by decide, by decide, by decide, _, rfl⟩

theorem witness_BuildersReturnTheirPayloads :
    configWf Session.reset.cfg = true ∧ (4294967 : Nat) ≤ 4294967 ∧ (4294967 : Nat) < 4294968 := by decide

theorem witness_OutboundRowsSendTheirPackets :
    configWf (given ready [.error]).session.cfg = true ∧ (given ready [.error]).bus.answers = .error :: [] ∧
    (given ready [.ok []]).bus.answers = .ok [] :: [] := by decide

theorem witness_FrameBuildsHeaderAndPayload :
    configWf Session.reset.cfg = true ∧ (List.replicate 32763 (0 : Byte)).length ≤ 32763 ∧
    32763 < (List.replicate 32764 (0 : Byte)).length := by
  rw [List.length_replicate, List.length_replicate]; decide

theorem witness_SendStampsFramesAndWrites :
    configWf ready.cfg = true ∧ (5 : Byte).toNat < nchan ∧ (List.replicate 28 (0 : Byte)).length + 4 ≤ ready.cfg.ceiling ∧
    (given ready [.ok []]).bus.answers = .ok [] :: [] ∧ nchan ≤ (6 : Byte).toNat ∧
    (32763 < (List.replicate 32764 (0 : Byte)).length) ∧
    ready.cfg.ceiling < (List.replicate 29 (0 : Byte)).length + 4 := by
  rw [List.length_replicate, List.length_replicate, List.length_replicate]; decide

theorem witness_DeframeFindsNoData :
    configWf Session.reset.cfg = true ∧ emptyProbe [4, 0x80, 3, 1] = true ∧ emptyProbe [5, 0, 3, 1] = false ∧
    ((⟨4, true, 3, 1⟩ : Header).length.toNat ≤ 4) ∧
    ∃ t, exec .deframe (given ready [.ok [5, 0, 4, 9], .ok [5, 0, 4, 9, 0x77]]) = .next t ∧ t.inProgress = none ∧
      t.returned = .deframed (.packet 4 9 [0x77] false) :=
  ⟨by decide, by decide, by decide, by decide, _, rfl, rfl, by decide⟩

theorem witness_DeframeReportsTransportFailures :
    configWf ready.cfg = true ∧ readResult 4 .error = none ∧ readResult 4 (.ok [0, 0, 0]) = none ∧
    fullChunks ready.cfg.ceiling [] = true ∧ ([] : List (Bytes × Bytes)).length * (32 - 4) + 4 < (5 : BitVec 15).toNat ∧
    readResult (1 + 4) .error = none ∧
    fullChunks ready.cfg.ceiling [([0x40, 0, 3, 5], List.replicate 28 0xFB)] = true ∧
    [(([0x40, 0, 3, 5] : Bytes), List.replicate 28 (0xFB : Byte))].length * (32 - 4) + 4 < (0x40 : BitVec 15).toNat := by
  decide

theorem witness_DeframeReassemblesItsPacket :
    configWf ready.cfg = true ∧ 1 ≤ ([0x77] : Bytes).length ∧ (5 : BitVec 15).toNat = ([0x77] : Bytes).length + 4 ∧
    deliversInChunks ready.cfg.ceiling [([5, 0, 4, 9], [0x77])] [0x77] = true ∧
    deliversInChunks ready.cfg.ceiling [([0, 0, 0, 0], List.replicate 28 1)] (List.replicate 28 1) = true ∧
    deliversInChunks ready.cfg.ceiling [([0, 0, 0, 0], List.replicate 28 1), ([9, 9, 9, 9], [1])]
      (List.replicate 29 1) = true := by decide

theorem witness_HeaderRowsReadTheirChunks :
    configWf ready.cfg = true ∧ ((⟨4, true, 3, 1⟩ : Header).length.toNat ≤ 4) ∧
    (⟨5, true, 4, 9⟩ : Header).length.toNat = ([0x77] : Bytes).length + 4 ∧
    deliversInChunks ready.cfg.ceiling [([5, 0, 4, 9], [0x77])] [0x77] = true ∧
    (given ready [.ok [5, 0, 4, 9, 0x77]]).bus.answers = pieceAnswers [([5, 0, 4, 9], [0x77])] ++ [] ∧
    (given ready [.error]).bus.answers = pieceAnswers [] ++ .error :: [] ∧ fullChunks ready.cfg.ceiling [] = true ∧
    ([] : List (Bytes × Bytes)).length * (ready.cfg.ceiling - 4) + 4 < (⟨5, true, 4, 9⟩ : Header).length.toNat ∧
    readResult (1 + 4) .error = none := by decide

theorem witness_FrameDeframeRoundTrip :
    configWf ready.cfg = true ∧
    exec (.frame 2 0 [0xF9, 0]) State.reset =
      .next { State.reset with inProgress := none, returned := .bytes [6, 0, 2, 0, 0xF9, 0] } ∧
    deliversInChunks ready.cfg.ceiling [([1, 2, 3, 4], [0xF9, 0])] [0xF9, 0] = true ∧
    exec (.frame 3 0x2A []) State.reset = .next { State.reset with inProgress := none, returned := .bytes [4, 0, 3, 0x2A] } :=
  ⟨by decide, rfl, by decide, rfl⟩

theorem witness_ContinuationFlagIsIgnored :
    (given ready [.ok [5, 0x80, 4, 9], .ok [5, 0, 4, 9, 0x77]]).bus.answers =
      .ok (Header.bytes ⟨5, true, 4, 9⟩) :: [.ok [5, 0, 4, 9, 0x77]] ∧
    ∃ t, exec (.header ⟨5, true, 4, 9⟩)
      { given ready [.ok [5, 0x80, 4, 9], .ok [5, 0, 4, 9, 0x77]] with
        bus := (given ready [.ok [5, 0x80, 4, 9], .ok [5, 0, 4, 9, 0x77]]).bus.advance 1
          [.read 4 (some (Header.bytes ⟨5, true, 4, 9⟩))] } = .next t ∧ t.inProgress = none :=
  ⟨by decide, _, rfl, rfl⟩

theorem witness_NextSequenceCounts : configWf ready.cfg = true ∧ (0 : Byte).toNat < nchan ∧ (5 : Byte).toNat < nchan ∧
    nchan ≤ (6 : Byte).toNat := by decide

theorem witness_NextSequenceWraps : (5 : Byte).toNat < nchan ∧ configWf ready.cfg = true ∧ ready.seq[5] = 0 := by decide

theorem witness_SessionSendsOnlyThreePackets :
    isSessionOperation .openSession = true ∧
    (∃ t, exec .openSession (given ready [.ok [], idle, idle, .ok []]) = .refused t) ∧
    (∃ t, exec .openSession (given Session.reset [.ok [], idle, idle, .ok []]) = .next t ∧ t.inProgress = none) ∧
    ∃ t f, exec .openSession (given Session.reset [.ok []]) = .next t ∧ t.inProgress = some f :=
  ⟨rfl, ⟨_, rfl⟩, ⟨_, rfl, rfl⟩, _, _, rfl, rfl⟩

theorem witness_DequantizeIsExact : configWf ready.cfg = true ∧ (-112 : Int) ≤ -112 ∧ (127 : Int) ≤ 127 ∧
    ¬(-112 ≤ (-113 : Int) ∧ (-113 : Int) ≤ 127) ∧ ¬(-112 ≤ (128 : Int) ∧ (128 : Int) ≤ 127) := by decide

/-- The state in which the reset sequence sends its soft reset. -/
def entering (answers : List Answer) : State := given { ready with fsm := .resetting, handshakeComplete := false } answers

/-- Both ends of the domain of `dequantize`, and the exponents beside them. -/
theorem witness_DequantizeDomain :
    configWf State.reset.session.cfg = true ∧ exponentInDomain (-112) = true ∧ exponentInDomain 127 = true ∧
    exponentInDomain (-113) = false ∧ exponentInDomain 128 = false := by decide

theorem witness_ResetSequenceComposes :
    (∃ t1, exec (.send 1 [0x01]) (entering [.error]) = .next t1 ∧ t1.returned = .sent false ∧ t1.inProgress = none) ∧
    ∃ t1, exec (.send 1 [0x01]) (entering [.ok [], idle, idle, .ok []]) = .next t1 ∧ t1.returned = .sent true ∧
      t1.inProgress = none ∧
    ∃ t2, exec .drain { t1 with session := { t1.session with seq := #v[0, 0, 0, 0, 0, 0] } } = .next t2 ∧
      t2.inProgress = none ∧ t2.returned = .reset .completed ∧
    ∃ t3, exec (.send 2 [0xF9, 0x00]) t2 = .next t3 ∧ t3.inProgress = none ∧ t3.returned = .sent true :=
  ⟨⟨_, rfl, rfl, rfl⟩, _, rfl, rfl, rfl, _, rfl, rfl, rfl, _, rfl, rfl, rfl⟩

theorem witness_ResetSequenceComposes_failures :
    (∃ t2, exec .drain (given ready [idle, .error]) = .next t2 ∧ t2.inProgress = none ∧ t2.returned = .reset .aborted) ∧
    ∃ t3, exec (.send 2 [0xF9, 0x00]) (given ready [.error]) = .next t3 ∧ t3.inProgress = none ∧
      t3.returned = .sent false := ⟨⟨_, rfl, rfl, rfl⟩, _, rfl, rfl, rfl⟩

theorem witness_OperationsOnIdleHub :
    configWf ready.cfg = true ∧ emptyProbe [0, 0, 0, 0] = true ∧ emptyProbe [4, 0x80, 3, 1] = true ∧
    (given ready [.ok [], .ok [0, 0, 0, 0], .ok [4, 0x80, 3, 1], .ok []]).bus.answers =
      .ok [] :: .ok [0, 0, 0, 0] :: .ok [4, 0x80, 3, 1] :: .ok [] :: [] ∧
    Session.reset.fsm = .uninitialized ∧ (enterResetting ready).fsm = .resetting ∧ waiting.fsm = .awaitingHandshake ∧
    ready.fsm = .ready := by decide

theorem witness_ResetSequenceKeepsAndChanges :
    (∃ t, exec .resetSequence (given ready [.ok [], idle, idle, .ok []]) = .next t ∧ t.inProgress = none ∧
      t.returned = .reset .completed) ∧
    (∃ t, exec .resetSequence (given ready [.ok [], idle, .error]) = .next t ∧ t.inProgress = none ∧
      t.session.seq = #v[0, 0, 0, 0, 0, 0]) ∧
    (∃ t, exec .resetSequence (given ready [.ok [], idle, idle, .error]) = .next t ∧ t.inProgress = none ∧
      t.session.seq = #v[0, 0, 1, 0, 0, 0]) ∧
    ∃ t, exec .resetSequence (given ready [.error]) = .next t ∧ t.inProgress = none ∧
      t.session.seq = #v[0, 2, 1, 0, 0, 0] := ⟨⟨_, rfl, rfl, rfl⟩, ⟨_, rfl, rfl, rfl⟩, ⟨_, rfl, rfl, rfl⟩, _, rfl, rfl, rfl⟩

theorem witness_OpenRunsTheResetSequence :
    (∃ t, exec .resetSequence (given Session.reset [.ok [], idle, idle, .ok []]) = .next t ∧ t.inProgress = none ∧
      t.returned = .reset .completed) ∧
    ∃ t, exec .resetSequence (given (enterResetting ready) [.error]) = .next t ∧ t.inProgress = none ∧
      t.returned = .reset .aborted := ⟨⟨_, rfl, rfl, rfl⟩, _, rfl, rfl, rfl⟩

theorem witness_OpenRunsTheResetSequence_states :
    configWf Session.reset.cfg = true ∧ Session.reset.fsm = .uninitialized ∧ (enterResetting ready).fsm = .resetting ∧
    waiting.fsm = .awaitingHandshake ∧ ready.fsm = .ready := by decide

theorem witness_DrainRepeatsDeframe :
    (∃ t, exec .deframe (given ready [.error]) = .next t ∧ t.inProgress = none ∧
      t.returned = .deframed .transportError) ∧
    (∃ t, exec .deframe (given ready [.ok [5, 0, 1, 0], .ok [5, 0, 1, 0, 1], idle, idle]) = .next t ∧
      t.inProgress = none ∧ t.returned = .deframed (.packet 1 0 [1] false) ∧
      ∃ u, exec .drain t = .next u ∧ u.inProgress = none) ∧
    ∃ t, exec .deframe (given ready [idle, idle]) = .next t ∧ t.inProgress = none ∧ t.returned = .deframed .noData ∧
      ∃ u, exec .deframe t = .next u ∧ u.inProgress = none ∧ u.returned = .deframed .noData :=
  ⟨⟨_, rfl, rfl, rfl⟩, ⟨_, rfl, rfl, rfl, _, rfl, rfl⟩, _, rfl, rfl, rfl, _, rfl, rfl, rfl⟩

theorem witness_HostAdmission : configWf Session.reset.cfg = true ∧ configWf ready.cfg = true := by decide

/-- Sessions with every slot written and the record filled meet the invariant, in each state of R21. -/
theorem witness_SessionInv :
    SessionInv { filled with active := [⟨2, 20, 0⟩, ⟨5, 4294967, 0⟩] } ∧ SessionInv { waiting with failCount := 2 } ∧
    SessionInv { Session.reset with seq := #v[0, 1, 0, 0, 0, 0] } := by
  refine ⟨?_, ?_, ?_⟩ <;> constructor <;> decide

theorem witness_HostOperationsRunWhenAdmitted :
    Session.reset.fsm = .uninitialized ∧ ready.fsm = .ready ∧ (4294967 : Nat) ≤ 4294967 ∧
    waiting.fsm ≠ .uninitialized := by decide

theorem witness_EnableRecordsAndSends :
    configWf ready.cfg = true ∧ ready.fsm = .ready ∧ (4294967 : Nat) ≤ 4294967 ∧
    (given ready [.ok []]).bus.answers = .ok [] :: [] ∧ (given ready [.error]).bus.answers = .error :: [] ∧
    ready.failCount + 1 < ready.cfg.failThreshold ∧
    ready.cfg.failThreshold ≤ ({ ready with failCount := 2 } : Session).failCount + 1 ∧ waiting.fsm ≠ .ready ∧
    (4294967 : Nat) < 4294968 := by decide

theorem witness_EnableRecordsAndSends_trips :
    ∃ t, exec .resetSequence (given { ready with failCount := 2 } [.ok [], idle, idle, .ok []]) = .next t ∧
      t.inProgress = none := ⟨_, rfl, rfl⟩

theorem witness_PollComposes_states :
    configWf Session.reset.cfg = true ∧ Session.reset.fsm = .uninitialized ∧ (enterResetting ready).fsm = .resetting ∧
    waiting.fsm = .awaitingHandshake ∧ ready.fsm = .ready ∧ ready.failCount + 1 < ready.cfg.failThreshold ∧
    ready.cfg.failThreshold ≤ ({ ready with failCount := 2 } : Session).failCount + 1 := by decide

theorem witness_PollComposes :
    (∃ u, exec .deframe (given ready [.error]) = .next u ∧ u.inProgress = none ∧
      u.returned = .deframed .transportError) ∧
    (∃ u, exec .deframe (given waiting [idle]) = .next u ∧ u.inProgress = none ∧ u.returned = .deframed .noData) ∧
    ∃ u, exec .deframe (given waiting [.ok [5, 0, 2, 0], .ok [5, 0, 2, 0, 0xF8]]) = .next u ∧ u.inProgress = none ∧
      u.returned = .deframed (.packet 2 0 [0xF8] false) ∧
    ∃ v, exec (.decode 2 [0xF8]) u = .next v ∧ v.returned = .decoded .handshakeAck ∧
    ∃ w, exec .replay { v with session := { v.session with fsm := .ready } } = .next w ∧ w.inProgress = none ∧
      w.returned = .replayed false :=
  ⟨⟨_, rfl, rfl, rfl⟩, ⟨_, rfl, rfl, rfl⟩, _, rfl, rfl, rfl, _, rfl, rfl, _, rfl, rfl, rfl⟩

theorem witness_PollComposes_failures :
    (∃ v, exec .resetSequence (given ready [.ok [], idle, idle, .ok []]) = .next v ∧ v.inProgress = none) ∧
    (∃ v, exec (.decode 3 [0x3D]) (given ready []) = .next v ∧ v.returned = .decoded .unrecognizedReport) ∧
    ∃ w, exec .replay (given { ready with active := [⟨2, 20, 0⟩] } [.error]) = .next w ∧ w.inProgress = none ∧
      w.returned = .replayed true := ⟨⟨_, rfl, rfl⟩, ⟨_, rfl, rfl⟩, _, rfl, rfl, rfl⟩

theorem witness_AccountCountsAndTrips :
    configWf ready.cfg = true ∧ ready.failCount + 1 < ready.cfg.failThreshold ∧
    ready.cfg.failThreshold ≤ ({ ready with failCount := 2 } : Session).failCount + 1 := by decide

theorem witness_ReplaySendsEveryEntry :
    configWf ready.cfg = true ∧ (∀ e ∈ ([⟨2, 20, 0⟩, ⟨5, 4294967, 0⟩] : List ActiveEntry), e.intervalMillis ≤ 4294967) ∧
    (given ready [.ok [], .error, idle]).bus.answers = [.ok [], .error] ++ [idle] ∧
    ([.ok [], .error] : List Answer).length =
      (replayEntries { ready with active := [⟨2, 20, 0⟩, ⟨5, 4294967, 0⟩] }).length := by decide

theorem witness_ReplayOrderCoversTheRecord :
    activeCanonical [⟨2, 20, 0⟩, ⟨5, 4294967, 0⟩] = true ∧ Session.reset.cfg.replayOrders = [] ∧
    [[2], [5, 2]] = [[2]] ++ ([5, 2] : Bytes) :: [] ∧ ¬ ([2] : Bytes).Perm [2, 5] ∧ ([5, 2] : Bytes).Perm [2, 5] := by
  decide

theorem witness_FsmTransitions :
    isHostOperation .poll = true ∧
    (∃ t, exec .poll (given waiting [.ok [5, 0, 2, 0], .ok [5, 0, 2, 0, 0xF8]]) = .next t ∧ t.inProgress = none ∧
      t.session.fsm = .ready) ∧
    (∃ t, exec .poll (given { ready with failCount := 2 } [.error, .error]) = .next t ∧ t.inProgress = none ∧
      t.session.fsm ≠ .ready) ∧
    ∃ t, exec .openSession (given Session.reset [.error]) = .next t ∧ t.inProgress = none :=
  ⟨rfl, ⟨_, rfl, rfl, rfl⟩, ⟨_, rfl, rfl, by decide⟩, _, rfl, rfl⟩

theorem witness_StepKeepsInvariant :
    ∃ t, step (doing State.reset (.call .openSession)) = .next t := ⟨_, rfl⟩

theorem witness_StepExtendsHistory :
    (∃ t, step (doing (given ready [idle]) (.call .poll)) = .next t ∧ t.inProgress = none) ∧
    (∃ t f, step (doing (given ready [.ok [5, 0, 2, 0]]) (.call .poll)) = .next t ∧ t.inProgress = some f) ∧
    (doing (given ready [idle]) (.call .poll)).pending ≠ [] := ⟨⟨_, rfl, rfl⟩, ⟨_, _, rfl, rfl⟩, by decide⟩

theorem witness_WhoWritesWhat :
    decodes .deframe = false ∧ controls .deframe = false ∧ sequences .deframe = false ∧
    ∃ t, exec .deframe (given ready [idle]) = .next t := ⟨rfl, rfl, rfl, _, rfl⟩

theorem witness_FurtherAnswersChangeNothing :
    (∃ t, exec .poll (given ready [idle]) = .next t ∧ t.inProgress = none) ∧
    ∃ r, exec .poll State.reset = .refused r := ⟨⟨_, rfl, rfl⟩, _, rfl⟩

theorem witness_ResetMeetsInvariant :
    configWf { Config.default with ceiling := 21, capacity := 1, failThreshold := 1 } = true := by decide

theorem witness_IllFormedConfigurationsAreRefused :
    (doing (given { ready with cfg := { Config.default with capacity := 0 } } []) (.read .fsm)).pending =
      .read .fsm :: [] ∧
    step (doing (given { ready with cfg := { Config.default with capacity := 0 } } []) (.read .fsm)) =
      .refused .illFormedConfig := ⟨by decide, rfl⟩

/-- The state whose transport gives these answers and then never another result (R299). -/
def givenThenSilent (s : Session) (answers : List Answer) : State :=
  { given s answers with bus := { (given s answers).bus with silent := true } }

theorem witness_AwaitedResultMayNeverArrive :
    (∃ t, step (doing (givenThenSilent ready []) (.call .poll)) = .next t ∧ t.inProgress = some ⟨[], .read 4⟩) ∧
    ∃ t, step (doing (givenThenSilent Session.reset [.ok [], idle]) (.call .openSession)) = .next t ∧
      t.inProgress ≠ none := ⟨⟨_, rfl, rfl⟩, _, rfl, by simp⟩

end Sys2Proof.Tests
end

section
/-! SUPPORT. The framer's family (40_framer.md): what `frame` builds, how `send` ends inside and outside its domain, and
what a deframe makes of the probe and the chunks that arrive. -/

namespace Sys2Proof.Machine

/-! ### `frame` -/

theorem frameOp_tooLong {payload : Bytes} (channel sequence : Byte) (h : 32763 < payload.length) :
    frameOp channel sequence payload = .refused .payloadTooLong := by simp [frameOp, h]

/-- All that a frame that returns can have built. -/
theorem frameOp_done {channel sequence : Byte} {payload f : Bytes} :
    frameOp channel sequence payload = .done f ↔
      payload.length ≤ 32763 ∧ f = packetBytes channel sequence payload := by
  by_cases hl : payload.length ≤ 32763
  · simp [frameOp_eq _ _ _ hl, hl, eq_comm]
  · simp [frameOp_tooLong _ _ (Nat.lt_of_not_le hl), hl]

/-- A `frame` that has returned these bytes had a payload in its domain and built the packet of R130. -/
theorem exec_frame_returned {u : State} {channel sequence : Byte} {p f : Bytes}
    (h : exec (.frame channel sequence p) u = .next { u with inProgress := none, returned := .bytes f }) :
    p.length ≤ 32763 ∧ f = packetBytes channel sequence p := by
  obtain ⟨r, hr, ht⟩ := exec_returned h rfl
  obtain ⟨bytes, hb, hr⟩ := Run.bind_eq_done.1 hr
  cases hr
  have hf : f = bytes := Result.bytes.inj (congrArg State.returned ht)
  exact hf ▸ frameOp_done.1 hb

/-- The high byte of a length that fits 15 bits leaves the continuation flag clear (R91, R131). -/
theorem lengthHighByte_flag {n : Nat} (h : n ≤ 32767) : (BitVec.ofNat 8 (n / 256)).getLsbD 7 = false := by
  rw [BitVec.getLsbD_ofNat, Nat.testBit_lt_two_pow (show n / 256 < 2 ^ 7 by omega), Bool.and_false]

/-- The two bytes of a length field hold that length (R90). -/
theorem lengthBytes_toNat {n : Nat} (h : n ≤ 32767) :
    (BitVec.ofNat 8 n).toNat + 256 * (BitVec.ofNat 8 (n / 256)).toNat = n := by
  simp only [BitVec.toNat_ofNat]
  omega

/-- Settles O21: `frame` builds a packet's bytes, and a total of at most 32767 leaves the flag of its field clear. -/
theorem frameBuildsHeaderAndPayload : Obligations.FrameBuildsHeaderAndPayload := by
  intro s channel sequence p hw
  refine ⟨fun hl => ⟨?_, lengthHighByte_flag (by omega), lengthBytes_toNat (by omega)⟩, fun hl => ?_⟩
  · rw [exec_eq_perform, ← packetBytes_eq _ _ hl]
    exact perform_done hw (r := (.bytes (packetBytes channel sequence p), ⟨s.session, s.bus⟩))
      (by simp [operationOf, frameOp_eq _ _ _ hl])
  · rw [exec_eq_perform]
    exact perform_refused hw (by simp [operationOf, frameOp_tooLong _ _ hl])

/-! ### `send` -/

theorem nextSequenceOp_unnamed {channel : Byte} (s : Session) (h : nchan ≤ channel.toNat) :
    nextSequenceOp channel s = .refused .noSuchChannel := by simp [nextSequenceOp, Nat.not_lt.2 h]

theorem sendOp_noSuchChannel {channel : Byte} (payload : Bytes) (w : Work) (h : nchan ≤ channel.toNat) :
    sendOp channel payload w = .refused .noSuchChannel := by simp [sendOp, nextSequenceOp_unnamed _ h]

theorem sendOp_payloadTooLong {channel : Byte} {payload : Bytes} (w : Work) (hc : channel.toNat < nchan)
    (hl : 32763 < payload.length) : sendOp channel payload w = .refused .payloadTooLong := by
  simp [sendOp, nextSequenceOp_named _ hc, frameOp_tooLong _ _ hl]

theorem sendOp_frameOverCeiling {channel : Byte} {payload : Bytes} {w : Work} (hc : channel.toNat < nchan)
    (hl : payload.length ≤ 32763) (ht : w.session.cfg.ceiling < payload.length + 4) :
    sendOp channel payload w = .refused .frameOverCeiling := by
  simp [sendOp, nextSequenceOp_named _ hc, frameOp_eq _ _ _ hl, packetBytes_length, ht]

/-- A `send` answers what its operation does. -/
theorem exec_send {s : State} {channel : Byte} {p : Bytes} {r : Bool × Work} (hw : configWf s.session.cfg = true)
    (h : sendOp channel p ⟨s.session, s.bus⟩ = .done r) :
    exec (.send channel p) s = .next (s.after (.sent r.1) r.2.session r.2.bus) := by
  rw [exec_eq_perform]
  exact perform_done hw (r := (.sent r.1, r.2)) (by simp [operationOf, h])

/-- A `send` is refused as its operation is. -/
theorem exec_send_refused {s : State} {channel : Byte} {p : Bytes} {r : Refusal} (hw : configWf s.session.cfg = true)
    (h : sendOp channel p ⟨s.session, s.bus⟩ = .refused r) : exec (.send channel p) s = .refused r := by
  rw [exec_eq_perform]
  exact perform_refused hw (by simp [operationOf, h])

/-- Settles O22: in its domain `send` is `sendOp_listed`, and outside it the first failing check of R132 refuses. -/
theorem sendStampsFramesAndWrites : Obligations.SendStampsFramesAndWrites := by
  intro s channel p hw
  refine ⟨fun hc a rest ht ha => ?_, fun hc => ?_, fun hc hl => ?_, fun hc hl ht => ?_⟩
  · have hl : p.length ≤ 32763 := by
      obtain ⟨-, hceil⟩ := configWf_ceiling hw
      omega
    rw [← packetBytes_eq _ _ hl]
    exact exec_send hw (sendOp_listed hc hl ht ha)
  · exact exec_send_refused hw (sendOp_noSuchChannel p _ hc)
  · exact exec_send_refused hw (sendOp_payloadTooLong _ hc hl)
  · exact exec_send_refused hw (sendOp_frameOverCeiling hc hl ht)

/-! ### The payload of a chunk loop -/

theorem storePayload_length (capacity : Nat) (payload chunk : Bytes) :
    (storePayload capacity payload chunk).length = payload.length + min (capacity - payload.length) chunk.length := by
  simp [storePayload]

/-- Storing two chunks one after the other is storing them joined (R139). -/
theorem storePayload_storePayload (capacity : Nat) (payload x y : Bytes) :
    storePayload capacity (storePayload capacity payload x) y = storePayload capacity payload (x ++ y) := by
  have hroom : capacity - (payload.length + min (capacity - payload.length) x.length) =
      capacity - payload.length - x.length := by omega
  simp [storePayload, List.take_append, hroom]

/-- How much is held at the end of a chunk loop in which every chunk arrived: what there was room for (R137, R139). -/
theorem readChunks_length {cfg : Config} (hc : 5 ≤ cfg.ceiling) {fuel remaining : Nat} {held q : Bytes} {b c : Bus}
    (hf : remaining ≤ fuel) (h : readChunks cfg fuel remaining held b = .done (some q, c)) :
    q.length = held.length + min (cfg.capacity - held.length) remaining := by
  induction fuel generalizing remaining held b with
  | zero =>
    cases h
    omega
  | succ fuel ih =>
    unfold readChunks at h
    split at h
    · cases h
      omega
    · obtain ⟨⟨answer, d⟩, hr, h⟩ := Run.bind_eq_done.1 h
      cases answer with
      | none => cases h
      | some bytes =>
        have hlen : bytes.length = min remaining (cfg.ceiling - 4) + 4 := by
          cases hb : b.answers with
          | nil => rw [busRead_unlisted _ hb] at hr; cases hr
          | cons a rest =>
            rw [busRead_listed _ hb] at hr
            exact readResult_length (congrArg Prod.fst (Run.done.inj hr))
        have hq := ih (by omega) h
        rw [storePayload_length, List.length_drop] at hq
        omega

/-! ### Deliveries in chunks -/

theorem deliversInChunks_nil {ceiling : Nat} {p : Bytes} : deliversInChunks ceiling [] p = true ↔ p = [] := by
  simp [deliversInChunks]

theorem deliversInChunks_cons {ceiling : Nat} {piece : Bytes × Bytes} {pieces : List (Bytes × Bytes)} {p : Bytes} :
    deliversInChunks ceiling (piece :: pieces) p = true ↔
      piece.1.length = 4 ∧ p ≠ [] ∧ piece.2 = p.take (ceiling - 4) ∧
      deliversInChunks ceiling pieces (p.drop (ceiling - 4)) = true := by
  simp [deliversInChunks, and_assoc]

/-- A delivery takes ceil(L / (CEILING - 4)) chunks (R137). -/
theorem deliversInChunks_count {ceiling : Nat} (hc : 5 ≤ ceiling) {pieces : List (Bytes × Bytes)} {p : Bytes}
    (h : deliversInChunks ceiling pieces p = true) :
    pieces.length = (p.length + (ceiling - 4) - 1) / (ceiling - 4) := by
  induction pieces generalizing p with
  | nil =>
    cases deliversInChunks_nil.1 h
    exact (Nat.div_eq_of_lt (by simp; omega)).symm
  | cons piece pieces ih =>
    obtain ⟨-, hp, -, hrest⟩ := deliversInChunks_cons.1 h
    have hpos : 0 < p.length := List.length_pos_iff.2 hp
    have hstep : (p.length + (ceiling - 4) - 1) / (ceiling - 4) = (p.length - 1) / (ceiling - 4) + 1 := by
      rw [← Nat.add_div_right _ (by omega)]
      congr 1
      omega
    rw [List.length_cons, ih hrest, hstep, List.length_drop]
    rcases Nat.lt_or_ge p.length (ceiling - 4) with hlt | hge
    · rw [Nat.div_eq_of_lt (by omega), Nat.div_eq_of_lt (by omega)]
    · congr 2
      omega

/-- A read of one piece's size answered by that piece. -/
theorem busRead_piece {b : Bus} {piece : Bytes × Bytes} {rest : List Answer} (h4 : piece.1.length = 4)
    (ha : b.answers = .ok (piece.1 ++ piece.2) :: rest) :
    busRead (piece.2.length + 4) b = .done (some (piece.1 ++ piece.2),
      b.advance 1 [.read (piece.2.length + 4) (some (piece.1 ++ piece.2))]) := by
  rw [busRead_listed _ ha, show piece.2.length + 4 = (piece.1 ++ piece.2).length by simp [h4, Nat.add_comm],
    readResult_ok]

/-- A chunk loop whose chunks arrive: it reads each piece and stores the payload they deliver (R137 to R139). -/
theorem readChunks_delivered {cfg : Config} (hc : 5 ≤ cfg.ceiling) {pieces : List (Bytes × Bytes)} {p held : Bytes}
    {fuel : Nat} {b : Bus} {rest : List Answer} (hd : deliversInChunks cfg.ceiling pieces p = true)
    (hf : p.length ≤ fuel) (ha : b.answers = pieceAnswers pieces ++ rest) :
    readChunks cfg fuel p.length held b =
      .done (some (storePayload cfg.capacity held p), b.advance pieces.length (pieceEvents pieces)) := by
  induction pieces generalizing p held fuel b with
  | nil =>
    cases deliversInChunks_nil.1 hd
    cases fuel <;> simp [readChunks, storePayload, pieceEvents]
  | cons piece pieces ih =>
    obtain ⟨h4, hp, hpiece, hrest⟩ := deliversInChunks_cons.1 hd
    have hpos : 0 < p.length := List.length_pos_iff.2 hp
    obtain ⟨fuel, rfl⟩ : ∃ k, fuel = k + 1 := ⟨fuel - 1, by omega⟩
    have hsize : min p.length (cfg.ceiling - 4) = piece.2.length := by
      rw [hpiece, List.length_take, Nat.min_comm]
    have hdrop : (piece.1 ++ piece.2).drop 4 = piece.2 := List.drop_left' h4
    have hleft : p.length - piece.2.length = (p.drop (cfg.ceiling - 4)).length := by
      rw [List.length_drop]
      omega
    have hjoin : piece.2 ++ p.drop (cfg.ceiling - 4) = p := by rw [hpiece, List.take_append_drop]
    rw [readChunks, if_neg (Nat.ne_of_gt hpos), hsize, busRead_piece h4 ha, Run.bind_done]
    simp only [hdrop, hleft]
    rw [ih hrest (by rw [List.length_drop]; omega) (by simp [ha, pieceAnswers]), storePayload_storePayload, hjoin]
    simp [pieceEvents, Nat.add_comm]

/-! ### After the probe -/

theorem header_read_length {bytes : Bytes} {h : Header} (e : Header.read bytes = some h) : bytes.length = 4 := by
  match bytes, e with
  | [_, _, _, _], _ => rfl

/-- R135's first way to "no data", a raw length field of 0, is not taken where the low 15 bits tell of payload. -/
theorem headerRaw_ne_zero {h : Header} (hl : 4 < h.length.toNat) : h.raw ≠ 0 := by
  intro h0
  have e := headerRaw_toNat h
  rw [h0] at e
  simp at e
  omega

/-- A header that tells of no payload byte: no data, and no further transaction (R135). -/
theorem afterProbe_noData {h : Header} (cfg : Config) (b : Bus) (hl : h.length.toNat ≤ 4) :
    afterProbe cfg h b = .done (.noData, raise .emptyPacket b) := by
  unfold afterProbe
  split
  · rfl
  · rw [if_pos (by omega)]

/-- A header that tells of payload bytes, which then arrive: their first CAPACITY bytes, the channel and the sequence
of the header, and `BufferOverflow` where some are lost (R137 to R139). -/
theorem afterProbe_delivered {cfg : Config} (hc : 5 ≤ cfg.ceiling) {h : Header} {pieces : List (Bytes × Bytes)}
    {p : Bytes} {b : Bus} {rest : List Answer} (hp : 1 ≤ p.length) (hl : h.length.toNat = p.length + 4)
    (hd : deliversInChunks cfg.ceiling pieces p = true) (ha : b.answers = pieceAnswers pieces ++ rest) :
    afterProbe cfg h b =
      .done (.packet h.channel h.sequence (p.take cfg.capacity) (decide (cfg.capacity < p.length)),
        b.advance pieces.length
          (pieceEvents pieces ++ if cfg.capacity < p.length then [.raised .bufferOverflow] else [])) := by
  rw [afterProbe, if_neg (headerRaw_ne_zero (by omega)), if_neg (by omega),
    show h.length.toNat - 4 = p.length by omega, readChunks_delivered hc hd (Nat.le_refl _) ha]
  by_cases ho : cfg.capacity < p.length <;> simp [overflows, ho]

/-- A packet is delivered only after a header that tells of payload bytes, with those that there is room for. -/
theorem afterProbe_packet_length {cfg : Config} (hc : 5 ≤ cfg.ceiling) {h : Header} {b c : Bus}
    {channel sequence : Byte} {p : Bytes} {overflow : Bool}
    (e : afterProbe cfg h b = .done (.packet channel sequence p overflow, c)) :
    4 < h.length.toNat ∧ p.length = min cfg.capacity (h.length.toNat - 4) := by
  rcases Nat.lt_or_ge 4 h.length.toNat with hl | hl
  · rw [afterProbe, if_neg (headerRaw_ne_zero hl), if_neg (by omega)] at e
    obtain ⟨⟨gathered, d⟩, hr, e⟩ := Run.bind_eq_done.1 e
    cases gathered with
    | none => cases e
    | some q =>
      cases e
      exact ⟨hl, by simpa using readChunks_length hc (Nat.le_refl _) hr⟩
  · rw [afterProbe_noData _ _ hl] at e
    cases e

/-! ### The whole deframe -/

/-- A probe that reads as a header is answered by one transaction, and the header says what follows (R134). -/
theorem deframeOp_probed {cfg : Config} {b : Bus} {probe : Bytes} {h : Header} {rest : List Answer}
    (hr : Header.read probe = some h) (ha : b.answers = .ok probe :: rest) :
    deframeOp cfg b = afterProbe cfg h (b.advance 1 [.read 4 (some probe)]) := by
  simp [deframeOp, busRead_listed 4 ha, readResult, header_read_length hr, hr]

/-- A deframe that delivers a packet has found its header at the probe. -/
theorem deframeOp_packet {cfg : Config} {b c : Bus} {channel sequence : Byte} {p : Bytes} {overflow : Bool}
    (e : deframeOp cfg b = .done (.packet channel sequence p overflow, c)) :
    ∃ h d, afterProbe cfg h d = .done (.packet channel sequence p overflow, c) := by
  obtain ⟨probe, -, e⟩ := Run.bind_eq_done.1 e
  split at e
  · cases e
  · exact ⟨_, _, e⟩

/-- A `deframe` answers what its operation does; only the transport changes. -/
theorem exec_deframe {s : State} {d : DeframeResult × Bus} (hw : configWf s.session.cfg = true)
    (h : deframeOp s.session.cfg s.bus = .done d) :
    exec .deframe s = .next (s.after (.deframed d.1) s.session d.2) := by
  rw [exec_eq_perform]
  exact perform_done hw (r := (.deframed d.1, ⟨s.session, d.2⟩)) (by simp [operationOf, h])

/-- A `deframe` whose probe tells of no payload byte. -/
theorem exec_deframe_noData {s : State} {probe : Bytes} {h : Header} {rest : List Answer}
    (hw : configWf s.session.cfg = true) (hr : Header.read probe = some h) (hl : h.length.toNat ≤ 4)
    (ha : s.bus.answers = .ok probe :: rest) :
    exec .deframe s = .next (s.after (.deframed .noData) s.session
      (s.bus.advance 1 [.read 4 (some probe), .raised .emptyPacket])) := by
  have e := deframeOp_probed (cfg := s.session.cfg) hr ha
  rw [afterProbe_noData _ _ hl, raise_advance] at e
  exact exec_deframe hw e

/-- A `deframe` whose probe tells of payload bytes, which then arrive. -/
theorem exec_deframe_delivered {s : State} {probe : Bytes} {h : Header} {pieces : List (Bytes × Bytes)} {p : Bytes}
    {rest : List Answer} (hw : configWf s.session.cfg = true) (hr : Header.read probe = some h) (hp : 1 ≤ p.length)
    (hl : h.length.toNat = p.length + 4) (hd : deliversInChunks s.session.cfg.ceiling pieces p = true)
    (ha : s.bus.answers = .ok probe :: (pieceAnswers pieces ++ rest)) :
    exec .deframe s = .next (s.after
      (.deframed (.packet h.channel h.sequence (p.take s.session.cfg.capacity)
        (decide (s.session.cfg.capacity < p.length)))) s.session
      (s.bus.advance (pieces.length + 1) (.read 4 (some probe) ::
        (pieceEvents pieces ++ if s.session.cfg.capacity < p.length then [.raised .bufferOverflow] else [])))) := by
  have hc : 5 ≤ s.session.cfg.ceiling := by
    obtain ⟨hceil, -⟩ := configWf_ceiling hw
    omega
  have e := deframeOp_probed (cfg := s.session.cfg) hr ha
  rw [afterProbe_delivered hc hp hl hd (rest := rest) (by simp [ha]), Bus.advance_advance, Nat.add_comm] at e
  exact exec_deframe hw e

/-- An empty probe reads as a header whose low 15 length bits are 4 or less. -/
theorem emptyProbe_header {probe : Bytes} (h : emptyProbe probe = true) :
    ∃ hd, Header.read probe = some hd ∧ hd.length.toNat ≤ 4 := by
  unfold emptyProbe at h
  split at h
  · exact ⟨_, rfl, by simpa [Laws.lengthOf_toNat] using h⟩
  · cases h

/-- Settles O23: an empty probe is a header without payload bytes, and a packet comes only from one with some. -/
theorem deframeFindsNoData : Obligations.DeframeFindsNoData := by
  intro s hw
  refine ⟨fun probe rest ha he => ?_, fun t channel sequence p overflow ht hp hret => ?_⟩
  · obtain ⟨h, hr, hl⟩ := emptyProbe_header he
    exact exec_deframe_noData hw hr hl ha
  · obtain ⟨r, hr, rfl⟩ := exec_returned ht hp
    obtain ⟨⟨result, c⟩, hd, hr⟩ := Run.bind_eq_done.1 hr
    cases hr
    cases hret
    obtain ⟨h, d, hd⟩ := deframeOp_packet hd
    obtain ⟨hceil, -⟩ := configWf_ceiling hw
    obtain ⟨hcap, -⟩ := configWf_capacity hw
    obtain ⟨hl, hp⟩ := afterProbe_packet_length (cfg := s.session.cfg) (by omega) hd
    omega

/-- Settles O25: the delivery is read chunk by chunk after the probe, in ceil(L / (CEILING - 4)) chunks. -/
theorem deframeReassemblesItsPacket : Obligations.DeframeReassemblesItsPacket := by
  intro s h pieces p rest hw hp hl hd
  obtain ⟨hceil, -⟩ := configWf_ceiling hw
  exact ⟨deliversInChunks_count (by omega) hd,
    exec_deframe_delivered hw (Laws.header_read_bytes h) hp hl hd⟩

/-! ### The round trip (R143) -/

/-- A payload that fits one chunk is delivered by the frame itself, its header in the place of the 4 discarded bytes. -/
theorem deliversInChunks_frame {ceiling : Nat} {p : Bytes} (channel sequence : Byte) (hp : 1 ≤ p.length)
    (hl : p.length ≤ ceiling - 4) :
    deliversInChunks ceiling [((packetBytes channel sequence p).take 4, p)] p = true := by
  refine deliversInChunks_cons.2 ⟨rfl, List.length_pos_iff.1 hp, (List.take_of_length_le hl).symm, ?_⟩
  exact deliversInChunks_nil.2 (List.drop_of_length_le hl)

/-- The length that the header of a frame gives is that of the frame. -/
theorem frameLength_toNat {p : Bytes} (h : p.length ≤ 32763) :
    (BitVec.ofNat 15 (p.length + 4)).toNat = p.length + 4 := by
  rw [BitVec.toNat_ofNat, Nat.mod_eq_of_lt (by omega)]

/-- The header of a frame as the probe, then its payload in chunks: the deframe finds what was framed. -/
theorem exec_deframe_frame {s : State} {channel sequence : Byte} {p : Bytes} {pieces : List (Bytes × Bytes)}
    {rest : List Answer} (hw : configWf s.session.cfg = true) (hmax : p.length ≤ 32763) (hp : 1 ≤ p.length)
    (hcap : p.length ≤ s.session.cfg.capacity) (hd : deliversInChunks s.session.cfg.ceiling pieces p = true)
    (ha : s.bus.answers = .ok ((packetBytes channel sequence p).take 4) :: (pieceAnswers pieces ++ rest)) :
    exec .deframe s = .next (s.after (.deframed (.packet channel sequence p false)) s.session
      (s.bus.advance (pieces.length + 1)
        (.read 4 (some ((packetBytes channel sequence p).take 4)) :: pieceEvents pieces))) := by
  have e := exec_deframe_delivered hw (Laws.header_read_packet channel sequence p) hp (frameLength_toNat hmax) hd ha
  simpa [Nat.not_lt.2 hcap, List.take_of_length_le hcap] using e

/-- Settles O27: the first 4 bytes of a frame read as the header of its payload, which the deframe then reassembles. -/
theorem frameDeframeRoundTrip : Obligations.FrameDeframeRoundTrip := by
  intro s u channel sequence p f rest hw hf
  obtain ⟨hmax, rfl⟩ := exec_frame_returned hf
  refine ⟨fun hp hcap => ⟨fun pieces hd ha => exec_deframe_frame hw hmax hp hcap hd ha, fun hone ha => ?_⟩, ?_⟩
  · have hwhole : (packetBytes channel sequence p).take 4 ++ p = packetBytes channel sequence p :=
      List.take_append_drop 4 _
    have e := exec_deframe_frame (rest := rest) hw hmax hp hcap (deliversInChunks_frame channel sequence hp hone)
      (by simpa [pieceAnswers, hwhole] using ha)
    simpa only [pieceEvents, List.map, List.length_singleton, hwhole, packetBytes_length] using e
  · rintro rfl ha
    exact exec_deframe_noData hw (Laws.header_read_packet channel sequence []) (Nat.le_of_eq (frameLength_toNat hmax)) ha

end Sys2Proof.Machine
end

section
/-! SUPPORT. The sequencer's family (41_sequencer.md): what one call of `nextSequence` returns and changes, and what a
run of calls does to the counter. -/

namespace Sys2Proof.Machine

/-! ### One call -/

/-- The session after `nextSequence` on a channel: its counter, and nothing else, is one more modulo 256 (R150, R157). -/
def Session.counted (s : Session) (channel : Byte) (hc : channel.toNat < nchan) : Session :=
  { s with seq := s.seq.set channel.toNat (s.seq[channel.toNat] + 1) }

@[simp] theorem Session.counted_cfg (s : Session) {channel : Byte} (hc : channel.toNat < nchan) :
    (s.counted channel hc).cfg = s.cfg := rfl

@[simp] theorem Session.counted_same (s : Session) {channel : Byte} (hc : channel.toNat < nchan) :
    (s.counted channel hc).seq[channel.toNat] = s.seq[channel.toNat] + 1 := Vector.getElem_set_self hc

theorem Session.counted_other (s : Session) {channel : Byte} (hc : channel.toNat < nchan) {d : Nat} (hd : d < nchan)
    (hne : d ≠ channel.toNat) : (s.counted channel hc).seq[d] = s.seq[d] := Vector.getElem_set_ne hc hd hne.symm

/-- A call on one of the six channels returns the counter as it was, and counts. -/
theorem exec_nextSequence {s : State} {channel : Byte} (hw : configWf s.session.cfg = true)
    (hc : channel.toNat < nchan) :
    exec (.nextSequence channel) s =
      .next (s.after (.sequence s.session.seq[channel.toNat]) (s.session.counted channel hc) s.bus) := by
  rw [exec_eq_perform]
  exact perform_done hw (r := (.sequence s.session.seq[channel.toNat], ⟨s.session.counted channel hc, s.bus⟩))
    (by simp [operationOf, nextSequenceOp_named _ hc, Session.counted])

theorem exec_nextSequence_refused {s : State} {channel : Byte} (hw : configWf s.session.cfg = true)
    (hc : nchan ≤ channel.toNat) : exec (.nextSequence channel) s = .refused .noSuchChannel := by
  rw [exec_eq_perform]
  exact perform_refused hw (by simp [operationOf, nextSequenceOp_unnamed _ hc])

/-- Settles O29: the state after a call is that of `Session.counted`, read at the channel and at the other five. -/
theorem nextSequenceCounts : Obligations.NextSequenceCounts := by
  intro s channel hw
  refine ⟨fun hc => ⟨_, exec_nextSequence hw hc, rfl, ?_, fun d hd hne => s.session.counted_other hc hd hne⟩,
    exec_nextSequence_refused hw⟩
  have hcount := congrArg BitVec.toNat (s.session.counted_same hc)
  rwa [BitVec.toNat_add] at hcount

/-! ### A run of calls -/

/-- Where the first call returns, the others are made from the state it leaves. -/
theorem callTimes_succ {i : Instr} {s t : State} (k : Nat) (h : exec i s = .next t) :
    callTimes (k + 1) i s = callTimes k i t := by simp [callTimes, h]

/-- The last of `k + 1` calls returns the first counter plus `k`, and leaves one more, modulo 256. -/
theorem callTimes_nextSequence {s : State} {channel : Byte} (hw : configWf s.session.cfg = true)
    (hc : channel.toNat < nchan) (k : Nat) :
    ∃ t, callTimes (k + 1) (.nextSequence channel) s = .next t ∧
      t.returned = .sequence (s.session.seq[channel.toNat] + BitVec.ofNat 8 k) ∧
      t.session.seq[channel.toNat] = s.session.seq[channel.toNat] + BitVec.ofNat 8 (k + 1) := by
  induction k generalizing s with
  | zero =>
    exact ⟨_, callTimes_succ 0 (exec_nextSequence hw hc), by simp [State.after], s.session.counted_same hc⟩
  | succ k ih =>
    obtain ⟨t, hcalls, hreturned, hcounter⟩ :=
      ih (s := s.after (.sequence s.session.seq[channel.toNat]) (s.session.counted channel hc) s.bus) hw
    have hshift (n : Nat) : (s.session.counted channel hc).seq[channel.toNat] + BitVec.ofNat 8 n =
        s.session.seq[channel.toNat] + BitVec.ofNat 8 (n + 1) := by
      rw [Session.counted_same, BitVec.add_assoc, Nat.add_comm n, BitVec.ofNat_add]
      rfl
    exact ⟨t, (callTimes_succ _ (exec_nextSequence hw hc)).trans hcalls, hreturned.trans (congrArg _ (hshift k)),
      hcounter.trans (hshift (k + 1))⟩

theorem ofNat8_mod_256 (n : Nat) : BitVec.ofNat 8 (n % 256) = BitVec.ofNat 8 n :=
  BitVec.eq_of_toNat_eq (by simp)

/-- Settles O30: a run of calls from 0 counts the calls, and its 256th returns 255 and leaves 256 modulo 256. -/
theorem nextSequenceWraps : Obligations.NextSequenceWraps := by
  intro s channel hc hw h0
  have hrun := callTimes_nextSequence hw hc
  simp only [h0, zero_add] at hrun
  exact ⟨by simpa only [ofNat8_mod_256] using hrun, hrun 255⟩

end Sys2Proof.Machine
end

section
/-! SUPPORT. The report decoder's family (42_decoder.md): the fields of a payload that begins with given bytes, how a
row and `decode` answer, how each decode action ends, and what an outcome names as written. -/

namespace Sys2Proof.Machine

/-! ### Fields of the payload space -/

@[simp] theorem memRead_cons_succ (b : Byte) (p : Bytes) (i n : Nat) :
    memRead (b :: p) (i + 1) n = memRead p i n := by
  have h : i + 1 + n ≤ p.length + 1 ↔ i + n ≤ p.length := by omega
  simp [memRead, h]

@[simp] theorem le16_cons_succ (b : Byte) (p : Bytes) (i : Nat) : le16 (b :: p) (i + 1) = le16 p i := by
  simp only [le16, memRead_cons_succ]

@[simp] theorem le32_cons_succ (b : Byte) (p : Bytes) (i : Nat) : le32 (b :: p) (i + 1) = le32 p i := by
  simp only [le32, memRead_cons_succ]

@[simp] theorem le16_cons_cons (b0 b1 : Byte) (p : Bytes) : le16 (b0 :: b1 :: p) 0 = some (b1 ++ b0) := by
  simp [le16, memRead]

@[simp] theorem le32_cons_cons (b0 b1 b2 b3 : Byte) (p : Bytes) :
    le32 (b0 :: b1 :: b2 :: b3 :: p) 0 = some (b3 ++ b2 ++ b1 ++ b0) := by
  simp [le32, memRead]

@[simp] theorem reportTimestamp_cons (b0 b1 b2 b3 b4 : Byte) (p : Bytes) :
    reportTimestamp (b0 :: b1 :: b2 :: b3 :: b4 :: p) = some (b4 ++ b3 ++ b2 ++ b1) := by
  simp [reportTimestamp]

@[simp] theorem reportStatus_cons (b0 b1 b2 b3 b4 b5 b6 b7 : Byte) (p : Bytes) :
    reportStatus (b0 :: b1 :: b2 :: b3 :: b4 :: b5 :: b6 :: b7 :: p) = some (b7.extractLsb' 0 2) := by
  simp [reportStatus, statusOf]

theorem le16_eq_none {p : Bytes} {i : Nat} (h : p.length < i + 2) : le16 p i = none := by
  simp [le16, memRead, Nat.not_le.2 h]

/-- The source's threshold for the fourth word is implied by its bytes being there (R106, R173). -/
theorem quaternionReal_eq (p : Bytes) : quaternionReal p = le16 p 15 := by
  rcases Nat.lt_or_ge p.length 17 with h | h
  · simp [quaternionReal, le16_eq_none h, Nat.not_le.2 h]
  · have hflag : hasQuaternionReal p = true := decide_eq_true (by unfold remainingLength; omega)
    simp [quaternionReal, hflag, h]

/-- The source's threshold for the fifth word is implied by its bytes being there (R106, R173). -/
theorem radianAccuracy_eq (p : Bytes) : radianAccuracy p = le16 p 17 := by
  rcases Nat.lt_or_ge p.length 19 with h | h
  · simp [radianAccuracy, le16_eq_none h, Nat.not_le.2 h]
  · have hflag : hasRadianAccuracy p = true := decide_eq_true (by unfold remainingLength; omega)
    simp [radianAccuracy, hflag, h]

/-! ### How a decode action ends -/

section WriteSlot

variable {α : Type} {kind : Kind} {minimum : Nat} {p : Bytes} {record : Option α} {put : α → Session} {s : Session}

theorem writeSlot_short (h : p.length < minimum) : writeSlot kind minimum p record put s = (.incomplete, s) :=
  if_pos h

theorem writeSlot_whole {r : α} (hl : minimum ≤ p.length) (hr : record = some r) :
    writeSlot kind minimum p record put s = (.report kind, put r) := by
  simp [writeSlot, Nat.not_lt.2 hl, hr]

end WriteSlot

theorem actCmdr_acknowledged {p : Bytes} {command : Byte} (s : Session) (hc : p[2]? = some command)
    (hne : command ≠ meCalibrate) : actCmdr p s = (.commandAck command, s) := by
  simp only [actCmdr, hc, if_neg hne]

theorem actCmdr_calibrated {p : Bytes} {r0 : Byte} (s : Session) (hc : p[2]? = some meCalibrate)
    (h0 : p[5]? = some r0) : actCmdr p s = (.commandAck meCalibrate, { s with calib := some ⟨r0⟩ }) := by
  simp [actCmdr, hc, h0]

theorem actCmdr_short {p : Bytes} (s : Session)
    (h : p.length < 3 ∨ (p[2]? = some meCalibrate ∧ p.length < 6)) : actCmdr p s = (.incomplete, s) := by
  rcases h with h | ⟨hc, h⟩
  · simp [actCmdr, List.getElem?_eq_none (Nat.le_of_lt_succ h)]
  · simp [actCmdr, hc, List.getElem?_eq_none (Nat.le_of_lt_succ h)]

theorem actSubOther_short {p : Bytes} (s : Session) (h : p.length < 6) : actSubOther p s = (.incomplete, s) :=
  if_pos h

theorem actSubOther_present {p : Bytes} (s : Session) (h : 6 ≤ p.length) :
    actSubOther p s = (.unrecognizedReport, s) := if_neg (Nat.not_lt.2 h)

/-! ### What an outcome names as written (R186) -/

/-- The second session is the first with exactly that written which the outcome names: one slot, the handshake flag,
or nothing. -/
def DecodeOutcome.wrote (o : DecodeOutcome) (s t : Session) : Prop :=
  match o with
  | .report k => wroteSlot k s t
  | .handshakeAck => t = { s with handshakeComplete := true }
  | .commandAck c => if c = 7 then ∃ r, t = { s with calib := some r } else t = s
  | .dataPresent => t = s
  | .unrecognizedReport => t = s
  | .incomplete => t = s

theorem writeSlot_wrote {α : Type} {kind : Kind} {minimum : Nat} {p : Bytes} {record : Option α} {put : α → Session}
    {s : Session} (h : ∀ r, record = some r → wroteSlot kind s (put r)) :
    (writeSlot kind minimum p record put s).1.wrote s (writeSlot kind minimum p record put s).2 := by
  rcases writeSlot_cases kind minimum p record put s with e | ⟨r, hr, -, e⟩
  · rw [e]
    exact rfl
  · rw [e]
    exact h r hr

theorem actCmdr_wrote (p : Bytes) (s : Session) : (actCmdr p s).1.wrote s (actCmdr p s).2 := by
  cases hc : p[2]? with
  | none =>
    rw [actCmdr_short s (.inl (Nat.lt_succ_of_le (List.getElem?_eq_none_iff.1 hc)))]
    exact rfl
  | some command =>
    by_cases hm : command = meCalibrate
    · subst hm
      cases h0 : p[5]? with
      | none =>
        rw [actCmdr_short s (.inr ⟨hc, Nat.lt_succ_of_le (List.getElem?_eq_none_iff.1 h0)⟩)]
        exact rfl
      | some r0 =>
        rw [actCmdr_calibrated s hc h0]
        exact ⟨⟨r0⟩, rfl⟩
    · rw [actCmdr_acknowledged s hc hm]
      exact (if_neg hm).mpr rfl

theorem actSubOther_wrote (p : Bytes) (s : Session) : (actSubOther p s).1.wrote s (actSubOther p s).2 := by
  rcases Nat.lt_or_ge p.length 6 with h | h
  · rw [actSubOther_short s h]
    exact rfl
  · rw [actSubOther_present s h]
    exact rfl

/-- A rotation record says which report wrote it (R178, R179). -/
theorem quaternionRecord_source {source : Byte} {p : Bytes} {r : Quaternion}
    (h : quaternionRecord source p = some r) : r.source = source := by
  unfold quaternionRecord at h
  split at h
  · cases h
    rfl
  · cases h

/-- Every row writes what its outcome names (R186). -/
theorem rowAction_wrote (r : InRow) (channel : Byte) (p : Bytes) (s : Session) :
    (rowAction r channel p s).1.wrote s (rowAction r channel p s).2 := by
  cases r with
  | pidr => exact rfl
  | cmdr => exact actCmdr_wrote p s
  | ctrlOther => exact rfl
  | accel => exact writeSlot_wrote fun r _ => ⟨r, rfl⟩
  | gyro => exact writeSlot_wrote fun r _ => ⟨r, rfl⟩
  | mag => exact writeSlot_wrote fun r _ => ⟨r, rfl⟩
  | linAccel => exact writeSlot_wrote fun r _ => ⟨r, rfl⟩
  | rotVec => exact writeSlot_wrote fun r hr => ⟨r, quaternionRecord_source hr, rfl⟩
  | gameRotVec => exact writeSlot_wrote fun r hr => ⟨r, quaternionRecord_source hr, rfl⟩
  | steps => exact writeSlot_wrote fun r _ => ⟨r, rfl⟩
  | stability => exact writeSlot_wrote fun r _ => ⟨r, rfl⟩
  | activity => exact writeSlot_wrote fun r _ => ⟨r, rfl⟩
  | subOther => exact actSubOther_wrote p s
  | reportsOther => exact rfl
  | ch0 => exact rfl
  | chOther => exact rfl

/-! ### How a row and `decode` answer -/

theorem operationOf_row (r : InRow) (channel : Byte) (p : Bytes) :
    operationOf (r.instr channel p) = actionOperation (rowAction r channel) p := by cases r <;> rfl

/-- An inbound row answers what its action makes of the retained payload (R185). -/
theorem exec_row {s : State} {p : Bytes} {o : DecodeOutcome} {u : Session} (r : InRow) (channel : Byte)
    (hw : configWf s.session.cfg = true) (h : rowAction r channel (p.take s.session.cfg.capacity) s.session = (o, u)) :
    exec (r.instr channel p) s = .next (s.after (.decoded o) u (recordOutcome o s.bus)) := by
  rw [exec_eq_perform, operationOf_row]
  exact perform_done hw (r := (.decoded o, ⟨u, recordOutcome o s.bus⟩)) (by simp [actionOperation, decodeAction, h])

theorem decodeOp_inDomain {channel : Byte} {p : Bytes} {r : InRow} {w : Work} (hc : classify channel p = some r)
    (hl : p.length ≤ w.session.cfg.capacity) :
    decodeOp channel p w = .done (decodeAction (rowAction r channel p) w) := by
  simp [decodeOp, Nat.not_lt.2 hl, hc]

/-- The ways a `decode` ends: it is refused, or its payload is in the domain and has a row, whose action it is. -/
theorem decodeOp_cases (channel : Byte) (p : Bytes) (w : Work) :
    decodeOp channel p w = .refused .payloadOutOfDomain ∨
    ∃ r, classify channel p = some r ∧ p.length ≤ w.session.cfg.capacity ∧
      decodeOp channel p w = .done (decodeAction (rowAction r channel p) w) := by
  rcases Nat.lt_or_ge w.session.cfg.capacity p.length with hl | hl
  · exact .inl (if_pos hl)
  cases hc : classify channel p with
  | none => exact .inl (by simp [decodeOp, hc])
  | some r => exact .inr ⟨r, rfl, hl, decodeOp_inDomain hc hl⟩

/-- In its domain a `decode` answers what the action of its row makes of the payload (R160, R161). -/
theorem exec_decode {s : State} {channel : Byte} {p : Bytes} {r : InRow} {o : DecodeOutcome} {u : Session}
    (hw : configWf s.session.cfg = true) (hc : classify channel p = some r) (hl : p.length ≤ s.session.cfg.capacity)
    (h : rowAction r channel p s.session = (o, u)) :
    exec (.decode channel p) s = .next (s.after (.decoded o) u (recordOutcome o s.bus)) := by
  rw [exec_eq_perform]
  exact perform_done hw (r := (.decoded o, ⟨u, recordOutcome o s.bus⟩))
    (by simp [operationOf, decodeOp_inDomain (w := ⟨s.session, s.bus⟩) hc hl, decodeAction, h])

/-- All that a `decode` can answer with a next state. -/
theorem exec_decode_next {s t : State} {channel : Byte} {p : Bytes} (h : exec (.decode channel p) s = .next t) :
    ∃ r, classify channel p = some r ∧ p.length ≤ s.session.cfg.capacity ∧
      t = s.after (.decoded (rowAction r channel p s.session).1) (rowAction r channel p s.session).2
        (recordOutcome (rowAction r channel p s.session).1 s.bus) := by
  obtain ⟨-, ht⟩ := exec_next.1 h
  rcases decodeOp_cases channel p ⟨s.session, s.bus⟩ with e | ⟨r, hc, hl, e⟩
  · simp [operationOf, e] at ht
  · exact ⟨r, hc, hl, by simpa [operationOf, e, decodeAction] using ht⟩

/-- A row whose action looks at no byte and writes nothing answers the same directly and from `decode`. -/
theorem exec_constantRow {s : State} {channel : Byte} {p : Bytes} {r : InRow} {o : DecodeOutcome}
    (hw : configWf s.session.cfg = true) (hc : classify channel p = some r)
    (h : ∀ q, rowAction r channel q s.session = (o, s.session)) :
    (p.length ≤ s.session.cfg.capacity →
      exec (.decode channel p) s = .next (s.after (.decoded o) s.session (recordOutcome o s.bus))) ∧
    exec (r.instr channel p) s = .next (s.after (.decoded o) s.session (recordOutcome o s.bus)) :=
  ⟨fun hl => exec_decode hw hc hl (h p), exec_row r channel hw (h _)⟩

/-! ### The rows of unknown packets -/

theorem classify_control_other {a : Byte} (rest : Bytes) (hF8 : a ≠ 0xF8#8) (hF1 : a ≠ 0xF1#8) :
    classify 2 (a :: rest) = some .ctrlOther := by simp [classify_cons, hF8, hF1]

theorem classify_reports_other {a : Byte} (rest : Bytes) (hFB : a ≠ 0xFB#8) :
    classify 3 (a :: rest) = some .reportsOther := by simp [classify_cons, hFB]

theorem classify_reports_report (rest : Bytes) :
    classify 3 (0xFB :: rest) = some (subReportRow (0xFB :: rest)[5]?) := rfl

theorem classify_command (a : Byte) (rest : Bytes) : classify 0 (a :: rest) = some .ch0 := rfl

theorem classify_other {channel : Byte} (a : Byte) (rest : Bytes) (h0 : channel ≠ 0#8) (h2 : channel ≠ 2#8)
    (h3 : channel ≠ 3#8) : classify channel (a :: rest) = some .chOther := by simp [classify_cons, h0, h2, h3]

theorem subReportRow_unknown {sub : Byte}
    (h : sub ∉ [0x01#8, 0x02#8, 0x03#8, 0x04#8, 0x05#8, 0x08#8, 0x11#8, 0x13#8, 0x1E#8]) :
    subReportRow (some sub) = .subOther := by
  simp only [List.mem_cons, List.not_mem_nil, or_false, not_or] at h
  simp [subReportRow_some, h]

/-! ### The statements -/

/-- Settles O11: the four rows put one and the same triplet record, each in its own slot. -/
theorem tripletReportsWriteTheirSlots : Obligations.TripletReportsWriteTheirSlots := by
  intro s p hw
  refine ⟨fun hshort => ?_, fun b0 b1 b2 b3 b4 b5 b6 b7 b8 b9 b10 b11 b12 b13 b14 rest hp => ?_⟩
  · exact ⟨exec_row .accel 3 hw (writeSlot_short hshort), exec_row .gyro 3 hw (writeSlot_short hshort),
      exec_row .mag 3 hw (writeSlot_short hshort), exec_row .linAccel 3 hw (writeSlot_short hshort)⟩
  · have hl : 15 ≤ (p.take s.session.cfg.capacity).length := by simp [hp]
    have hr : tripletRecord (p.take s.session.cfg.capacity) =
        some ⟨b7.extractLsb' 0 2, b4 ++ b3 ++ b2 ++ b1, b10 ++ b9, b12 ++ b11, b14 ++ b13⟩ := by
      simp [hp, tripletRecord]
    exact ⟨exec_row .accel 3 hw (writeSlot_whole hl hr), exec_row .gyro 3 hw (writeSlot_whole hl hr),
      exec_row .mag 3 hw (writeSlot_whole hl hr), exec_row .linAccel 3 hw (writeSlot_whole hl hr)⟩

/-- Settles O12: both rows put the same record but for its source; each optional word is there when its bytes are. -/
theorem rotationReportsWriteTheQuaternion : Obligations.RotationReportsWriteTheQuaternion := by
  intro s p hw
  refine ⟨fun hshort => ?_, fun b0 b1 b2 b3 b4 b5 b6 b7 b8 b9 b10 b11 b12 b13 b14 rest real radAcc hp hwords => ?_⟩
  · exact ⟨exec_row .rotVec 3 hw (writeSlot_short hshort), exec_row .gameRotVec 3 hw (writeSlot_short hshort)⟩
  · have hopt : le16 rest 0 = real ∧ le16 rest 2 = radAcc := by
      rcases hwords with ⟨hl, rfl, rfl⟩ | ⟨c0, c1, more, rfl, hl, rfl, rfl⟩ | ⟨c0, c1, c2, c3, more, rfl, rfl, rfl⟩
      · exact ⟨le16_eq_none (by omega), le16_eq_none (by omega)⟩
      · exact ⟨le16_cons_cons c0 c1 more, by simpa using le16_eq_none (i := 0) (Nat.lt_succ_of_le hl)⟩
      · simp
    have hl : 15 ≤ (p.take s.session.cfg.capacity).length := by simp [hp]
    have hr (source : Byte) : quaternionRecord source (p.take s.session.cfg.capacity) =
        some ⟨b7.extractLsb' 0 2, b4 ++ b3 ++ b2 ++ b1, source, b10 ++ b9, b12 ++ b11, b14 ++ b13, real, radAcc⟩ := by
      simp [hp, quaternionRecord, quaternionReal_eq, radianAccuracy_eq, hopt]
    exact ⟨exec_row .rotVec 3 hw (writeSlot_whole hl (hr 0x05)),
      exec_row .gameRotVec 3 hw (writeSlot_whole hl (hr 0x08))⟩

/-- Settles O13: each of the three rows puts the record of its own fields, and none below its own minimum. -/
theorem counterAndClassifierReports : Obligations.CounterAndClassifierReports := by
  intro s p hw retained
  refine ⟨fun b0 b1 b2 b3 b4 b5 b6 b7 b8 b9 b10 b11 b12 b13 b14 rest hp => ?_,
    fun b0 b1 b2 b3 b4 b5 b6 b7 b8 b9 rest hp => ?_,
    fun b0 b1 b2 b3 b4 b5 b6 b7 b8 b9 b10 c0 c1 c2 c3 c4 c5 c6 c7 c8 rest hp => ?_,
    fun h => exec_row .steps 3 hw (writeSlot_short h), fun h => exec_row .stability 3 hw (writeSlot_short h),
    fun h => exec_row .activity 3 hw (writeSlot_short h)⟩
  · have hr : stepRecord retained = some ⟨b7.extractLsb' 0 2, b4 ++ b3 ++ b2 ++ b1, b14 ++ b13⟩ := by
      simp [hp, stepRecord]
    exact exec_row .steps 3 hw (writeSlot_whole (p := retained) (by simp [hp]) hr)
  · have hr : stabilityRecord retained = some ⟨b7.extractLsb' 0 2, b4 ++ b3 ++ b2 ++ b1, b9⟩ := by
      simp [hp, stabilityRecord]
    exact exec_row .stability 3 hw (writeSlot_whole (p := retained) (by simp [hp]) hr)
  · have hr : activityRecord retained =
        some ⟨b7.extractLsb' 0 2, b4 ++ b3 ++ b2 ++ b1, b10, #v[c0, c1, c2, c3, c4, c5, c6, c7, c8]⟩ := by
      simp [hp, activityRecord, confidenceEntries, memRead]
    exact exec_row .activity 3 hw (writeSlot_whole (p := retained) (by simp [hp]) hr)

/-- Settles O14: the ends of a command response are told apart by its third byte and by what is retained of it. -/
theorem handshakeAndCommandRows : Obligations.HandshakeAndCommandRows := by
  intro s p hw retained
  refine ⟨exec_row .pidr 2 hw rfl, fun b0 b1 command rest hne hp => ?_, fun b0 b1 b3 b4 r0 rest hp => ?_,
    fun h => exec_row .cmdr 2 hw (actCmdr_short s.session h)⟩
  · have hc : retained[2]? = some command := by simp [hp]
    exact exec_row .cmdr 2 hw (actCmdr_acknowledged s.session hc hne)
  · have hc : retained[2]? = some meCalibrate := by simp [hp]
    have h0 : retained[5]? = some r0 := by simp [hp]
    exact exec_row .cmdr 2 hw (actCmdr_calibrated s.session hc h0)

/-- Settles O15: the dispatch finds the row of such a packet, and the action of that row writes nothing. -/
theorem unknownPacketsWriteNothing : Obligations.UnknownPacketsWriteNothing := by
  intro s p hw hp unrecognized present whole
  obtain ⟨a, rest, rfl⟩ := List.exists_cons_of_length_pos hp
  simp only [List.getElem?_cons_zero, ne_eq, Option.some.injEq]
  refine ⟨fun hF8 hF1 => ?_, fun hFB => ?_, ?_, fun hFB sub hsub hunknown => ?_, fun channel h0 h2 h3 => ?_⟩
  · exact exec_constantRow (r := .ctrlOther) hw (classify_control_other rest hF8 hF1) fun _ => rfl
  · exact exec_constantRow (r := .reportsOther) hw (classify_reports_other rest hFB) fun _ => rfl
  · exact exec_constantRow (r := .ch0) hw (classify_command a rest) fun _ => rfl
  · subst hFB
    have hc : classify 3 (0xFB :: rest) = some .subOther := by
      rw [classify_reports_report, hsub, subReportRow_unknown hunknown]
    obtain ⟨hsix, -⟩ := List.getElem?_eq_some_iff.1 hsub
    have hkept (hcap : 6 ≤ s.session.cfg.capacity) :
        6 ≤ ((0xFB :: rest).take s.session.cfg.capacity).length := by
      rw [List.length_take]
      omega
    exact ⟨fun hl => exec_decode hw hc hl (actSubOther_present s.session hsix),
      fun hcap => exec_row .subOther 3 hw (actSubOther_present s.session (hkept hcap))⟩
  · exact exec_constantRow (r := .chOther) hw (classify_other a rest h0 h2 h3) fun _ => rfl

/-- Settles O17: a `decode` that answers a next state is the action of one row, which writes what its outcome names. -/
theorem decodeWritesOneSlotOrNothing : Obligations.DecodeWritesOneSlotOrNothing := by
  intro s t channel p h
  obtain ⟨r, -, -, rfl⟩ := exec_decode_next h
  exact ⟨_, rfl, rfl, rowAction_wrote r channel p s.session⟩

end Sys2Proof.Machine
end

section
/-! SUPPORT. The encoder's family (43_encoder.md): what the three builders return, and that session control sends
nothing else: one relation on the session and the transport, kept by every operation that session control is made of. -/

namespace Sys2Proof.Machine

/-! ### The builders -/

/-- The bytes of a 32-bit field as numbers, the least significant first (R67). -/
theorem bytesLe32_eq (v : Word32) : bytesLe32 v =
    [BitVec.ofNat 8 v.toNat, BitVec.ofNat 8 (v.toNat / 2 ^ 8), BitVec.ofNat 8 (v.toNat / 2 ^ 16),
      BitVec.ofNat 8 (v.toNat / 2 ^ 24)] := by
  simp [bytesLe32, BitVec.extractLsb', Nat.shiftRight_eq_div_pow]

/-- An interval in the domain of R201 has its microseconds in 32 bits. -/
theorem intervalMicros_toNat {ms : Nat} (h : ms ≤ 4294967) : (BitVec.ofNat 32 (ms * 1000)).toNat = ms * 1000 := by
  rw [BitVec.toNat_ofNat, Nat.mod_eq_of_lt (by omega)]

theorem setFeatureOp_inRange {ms : Nat} (r : Byte) (c : Word32) (h : ms ≤ 4294967) :
    setFeatureOp r ms c =
      .done (Channel.control.code, setFeaturePayload r (BitVec.ofNat 32 (ms * 1000)) c) := if_neg (Nat.not_lt.2 h)

theorem setFeatureOp_tooLong {ms : Nat} (r : Byte) (c : Word32) (h : 4294967 < ms) :
    setFeatureOp r ms c = .refused .intervalTooLong := if_pos h

/-- An instruction whose operation only builds a packet returns it and changes nothing (R206). -/
theorem exec_built {i : Instr} {s : State} {channel : Byte} {payload : Bytes} (hw : configWf s.session.cfg = true)
    (h : operationOf i ⟨s.session, s.bus⟩ = .done (.built channel payload, ⟨s.session, s.bus⟩)) :
    exec i s = .next (s.after (.built channel payload) s.session s.bus) := by
  rw [exec_eq_perform]
  exact perform_done hw h

/-- Settles O19: the two constant builders as they stand, and `buildSetFeature` by the bytes of its 32-bit fields. -/
theorem buildersReturnTheirPayloads : Obligations.BuildersReturnTheirPayloads := by
  intro s hw
  refine ⟨fun r ms c hms => exec_built hw ?_, fun r ms c hms => ?_, exec_built hw rfl, exec_built hw rfl⟩
  · simp [operationOf, setFeatureOp_inRange r c hms, setFeaturePayload, bytesLe32_eq, intervalMicros_toNat hms,
      Channel.code]
  · rw [exec_eq_perform]
    exact perform_refused hw (by simp [operationOf, setFeatureOp_tooLong r c hms])

/-! ### The packets that are built -/

/-- Channel and payload are what one of the three builders returns (R200, R202, R203). -/
inductive BuiltPacket : Byte → Bytes → Prop where
  | setFeature (r : Byte) (micros c : Word32) : BuiltPacket Channel.control.code (setFeaturePayload r micros c)
  | softReset : BuiltPacket softResetPacket.1 softResetPacket.2
  | productId : BuiltPacket productIdPacket.1 productIdPacket.2

theorem setFeatureOp_built {r : Byte} {ms : Nat} {c : Word32} {p : Byte × Bytes}
    (h : setFeatureOp r ms c = .done p) : BuiltPacket p.1 p.2 := by
  rcases Nat.lt_or_ge 4294967 ms with hms | hms
  · rw [setFeatureOp_tooLong r c hms] at h
    cases h
  · rw [setFeatureOp_inRange r c hms] at h
    cases h
    exact .setFeature r _ c

/-- A built packet, stamped and framed, is one of the three images of R204, byte by byte. -/
theorem BuiltPacket.image {channel : Byte} {payload : Bytes} (h : BuiltPacket channel payload) (ss : Byte) :
    isOutboundPacket (packetBytes channel ss payload) := by
  cases h with
  | setFeature r micros c => exact .inl ⟨ss, r, micros, c, packetBytes_setFeature ss r micros c⟩
  | softReset => exact .inr (.inl ⟨ss, packetBytes_softReset ss⟩)
  | productId => exact .inr (.inr ⟨ss, packetBytes_productId ss⟩)

/-- A built packet goes out on channel 1 or 2 (R155). -/
theorem BuiltPacket.channel {channel : Byte} {payload : Bytes} (h : BuiltPacket channel payload) :
    channel.toNat = 1 ∨ channel.toNat = 2 := by
  cases h with
  | setFeature r micros c => exact .inr rfl
  | softReset => exact .inl rfl
  | productId => exact .inr rfl

theorem BuiltPacket.length {channel : Byte} {payload : Bytes} (h : BuiltPacket channel payload) :
    payload.length ≤ 17 := by
  cases h with
  | setFeature r micros c => exact Nat.le_refl 17
  | softReset => decide
  | productId => decide

/-! ### Only the three packets are written -/

/-- A write among the events is one of the three outbound packets (R204). -/
def Event.outbound : Event → Prop
  | .write bytes _ => isOutboundPacket bytes
  | .read _ _ => True
  | .raised _ => True

/-- An awaited write is one of the three outbound packets (R204). -/
def Transaction.outbound : Transaction → Prop
  | .write bytes => isOutboundPacket bytes
  | .read _ => True

/-- From the first to the second only outbound packets have been written, and the counters of the channels that carry
none of them are still 0 if they were (R155, R204). -/
def Work.sentOutbound (w v : Work) : Prop :=
  (∃ events, v.bus.history = w.bus.history ++ events ∧ ∀ e ∈ events, e.outbound) ∧
  ∀ (d : Nat) (hd : d < nchan), d ≠ 1 → d ≠ 2 → w.session.seq[d] = 0 → v.session.seq[d] = 0

theorem Work.sentOutbound_of_eq {w v : Work} (hb : v.bus.history = w.bus.history)
    (hs : v.session.seq = w.session.seq) : w.sentOutbound v :=
  ⟨⟨[], by simp [hb], by simp⟩, fun d hd _ _ h => by simpa [hs] using h⟩

/-- Events alone, the session as it was. -/
theorem Work.sentOutbound_of_events {w : Work} {c : Bus} (events : List Event)
    (hc : c.history = w.bus.history ++ events) (h : ∀ e ∈ events, e.outbound) : w.sentOutbound ⟨w.session, c⟩ :=
  ⟨⟨events, hc, h⟩, fun _ _ _ _ h => h⟩

theorem Work.sentOutbound_raise (w : Work) (c : Condition) : w.sentOutbound ⟨w.session, raise c w.bus⟩ :=
  sentOutbound_of_events [.raised c] rfl (by simp [Event.outbound])

theorem Work.sentOutbound_trans {w v u : Work} (h : w.sentOutbound v) (k : v.sentOutbound u) : w.sentOutbound u := by
  obtain ⟨⟨es, hes, hout⟩, hseq⟩ := h
  obtain ⟨⟨fs, hfs, kout⟩, kseq⟩ := k
  refine ⟨⟨es ++ fs, by rw [hfs, hes, List.append_assoc], fun e he => ?_⟩,
    fun d hd h1 h2 h0 => kseq d hd h1 h2 (hseq d hd h1 h2 h0)⟩
  exact (List.mem_append.1 he).elim (hout e) (kout e)

/-- Zeroing the table, or not, leaves the unused counters 0 (R154). -/
theorem Work.sentOutbound_cleared (w : Work) (clear : Bool) :
    w.sentOutbound ⟨if clear then clearSequence w.session else w.session, w.bus⟩ := by
  split
  · refine ⟨⟨[], by simp, by simp⟩, fun d hd _ _ _ => ?_⟩
    have hd : d < 6 := hd
    interval_cases d <;> rfl
  · exact Work.sentOutbound_of_eq rfl rfl

/-- What a run has written since the start: outbound packets alone when it is done; when it waits, what it awaits is
no other write either. -/
def Run.sendsOutbound {α : Type} (w : Work) (work : α → Work) : Run α → Prop
  | .done a => w.sentOutbound (work a)
  | .waits f => (∃ events, f.events = w.bus.history ++ events ∧ ∀ e ∈ events, e.outbound) ∧ f.awaiting.outbound
  | .refused _ => True

section
variable {α β : Type} {w v : Work} {p : α → Work} {q : β → Work}

/-- A run from a later point, counted from an earlier one. -/
theorem Run.sendsOutbound_from {x : Run α} (h : w.sentOutbound v) (k : x.sendsOutbound v p) :
    x.sendsOutbound w p := by
  cases x with
  | done a => exact Work.sentOutbound_trans h k
  | refused r => trivial
  | waits f =>
    obtain ⟨⟨es, hes, hout⟩, -⟩ := h
    obtain ⟨⟨fs, hfs, kout⟩, ht⟩ := k
    refine ⟨⟨es ++ fs, by rw [hfs, hes, List.append_assoc], fun e he => ?_⟩, ht⟩
    exact (List.mem_append.1 he).elim (hout e) (kout e)

theorem Run.sendsOutbound_bind {x : Run α} {f : α → Run β} (h : x.sendsOutbound w p)
    (k : ∀ a, x = .done a → (f a).sendsOutbound (p a) q) : (x.bind f).sendsOutbound w q := by
  cases x with
  | done a => exact Run.sendsOutbound_from h (k a rfl)
  | waits f => exact h
  | refused r => trivial

/-- A run that ends where nothing more has passed and no counter has moved. -/
theorem Run.sendsOutbound_done {a : α} (hb : (p a).bus.history = w.bus.history)
    (hs : (p a).session.seq = w.session.seq) : (Run.done a).sendsOutbound w p := Work.sentOutbound_of_eq hb hs

end

/-! ### The deframer and the drain only read -/

theorem busRead_sendsOutbound (n : Nat) (w : Work) :
    (busRead n w.bus).sendsOutbound w (fun c => ⟨w.session, c.2⟩) := by
  cases hb : w.bus.answers with
  | nil =>
    rw [busRead_unlisted n hb]
    exact ⟨⟨[], by simp, by simp⟩, trivial⟩
  | cons a rest =>
    rw [busRead_listed n hb]
    exact Work.sentOutbound_of_events _ rfl (by simp [Event.outbound])

theorem readChunks_sendsOutbound (cfg : Config) (fuel remaining : Nat) (payload : Bytes) (w : Work) :
    (readChunks cfg fuel remaining payload w.bus).sendsOutbound w (fun c => ⟨w.session, c.2⟩) := by
  induction fuel generalizing remaining payload w with
  | zero => exact Run.sendsOutbound_done rfl rfl
  | succ fuel ih =>
    unfold readChunks
    split
    · exact Run.sendsOutbound_done rfl rfl
    · refine Run.sendsOutbound_bind (busRead_sendsOutbound _ w) fun c _ => ?_
      split
      · exact Run.sendsOutbound_done rfl rfl
      · exact ih _ _ ⟨w.session, c.2⟩

theorem afterProbe_sendsOutbound (cfg : Config) (h : Header) (w : Work) :
    (afterProbe cfg h w.bus).sendsOutbound w (fun d => ⟨w.session, d.2⟩) := by
  unfold afterProbe
  split
  · exact Work.sentOutbound_raise w _
  split
  · exact Work.sentOutbound_raise w _
  refine Run.sendsOutbound_bind (readChunks_sendsOutbound cfg _ _ _ w) fun c _ => ?_
  split
  · exact Work.sentOutbound_raise ⟨w.session, c.2⟩ _
  · show Work.sentOutbound ⟨w.session, c.2⟩ ⟨w.session, if _ then _ else _⟩
    split
    · exact Work.sentOutbound_raise ⟨w.session, c.2⟩ _
    · exact Work.sentOutbound_of_eq rfl rfl

theorem deframeOp_sendsOutbound (cfg : Config) (w : Work) :
    (deframeOp cfg w.bus).sendsOutbound w (fun d => ⟨w.session, d.2⟩) := by
  refine Run.sendsOutbound_bind (busRead_sendsOutbound 4 w) fun c _ => ?_
  split
  · exact Work.sentOutbound_raise ⟨w.session, c.2⟩ _
  · exact afterProbe_sendsOutbound cfg _ ⟨w.session, c.2⟩

theorem drainLoop_sendsOutbound (cfg : Config) (fuel empties : Nat) (w : Work) :
    (drainLoop cfg fuel empties w.bus).sendsOutbound w (fun d => ⟨w.session, d.2⟩) := by
  induction fuel generalizing empties w with
  | zero =>
    unfold drainLoop
    split
    · exact ⟨⟨[], by simp, by simp⟩, trivial⟩
    · exact Run.sendsOutbound_done rfl rfl
  | succ fuel ih =>
    unfold drainLoop
    split
    · refine Run.sendsOutbound_bind (deframeOp_sendsOutbound cfg w) fun d _ => ?_
      split
      · exact ih _ ⟨w.session, d.2⟩
      · exact ih _ ⟨w.session, d.2⟩
      · exact Run.sendsOutbound_done rfl rfl
      · exact Run.sendsOutbound_done rfl rfl
    · exact Run.sendsOutbound_done rfl rfl

/-! ### A built packet, sent -/

/-- A send in its domain with no answer listed awaits the write of the stamped frame. -/
theorem sendOp_unlisted {channel : Byte} {payload : Bytes} {w : Work} (hc : channel.toNat < nchan)
    (hl : payload.length ≤ 32763) (ht : payload.length + 4 ≤ w.session.cfg.ceiling) (ha : w.bus.answers = []) :
    sendOp channel payload w =
      .waits ⟨w.bus.history, .write (packetBytes channel w.session.seq[channel.toNat] payload)⟩ := by
  simp [sendOp, nextSequenceOp_named _ hc, frameOp_eq _ _ _ hl, packetBytes_length, Nat.not_lt.2 ht,
    busWrite_unlisted _ ha]

theorem writeEvents_outbound {bytes : Bytes} (h : isOutboundPacket bytes) (a : Answer) :
    ∀ e ∈ writeEvents bytes a, e.outbound := by
  cases hr : writeResult a <;> simp [writeEvents, hr, Event.outbound, h]

theorem sendOp_sendsOutbound {channel : Byte} {payload : Bytes} (h : BuiltPacket channel payload) (w : Work) :
    (sendOp channel payload w).sendsOutbound w (·.2) := by
  have hch := h.channel
  have hc : channel.toNat < nchan := show channel.toNat < 6 by omega
  have hl : payload.length ≤ 32763 := Nat.le_trans h.length (by omega)
  rcases Nat.lt_or_ge w.session.cfg.ceiling (payload.length + 4) with ht | ht
  · rw [sendOp_frameOverCeiling hc hl ht]
    trivial
  cases ha : w.bus.answers with
  | nil =>
    rw [sendOp_unlisted hc hl ht ha]
    exact ⟨⟨[], by simp, by simp⟩, h.image _⟩
  | cons a rest =>
    rw [sendOp_listed hc hl ht ha]
    refine ⟨⟨_, rfl, writeEvents_outbound (h.image _) a⟩, fun d hd h1 h2 h0 => ?_⟩
    exact (w.session.counted_other hc hd (by omega)).trans h0

/-! ### The parts of session control -/

theorem resetOp_sendsOutbound (w : Work) : (resetOp w).sendsOutbound w (·.2) := by
  refine Run.sendsOutbound_from (v := ⟨enterResetting w.session, w.bus⟩) (Work.sentOutbound_of_eq rfl rfl) ?_
  refine Run.sendsOutbound_bind (sendOp_sendsOutbound .softReset _) fun r _ => ?_
  split
  · refine Run.sendsOutbound_from (Work.sentOutbound_cleared r.2 r.2.session.cfg.seqClearOnSoftReset)
      (Run.sendsOutbound_bind (drainLoop_sendsOutbound _ _ _ _) fun d _ => ?_)
    obtain ⟨result, c⟩ := d
    cases result with
    | aborted => exact Run.sendsOutbound_done rfl rfl
    | completed =>
      refine Run.sendsOutbound_bind (sendOp_sendsOutbound .productId _) fun q _ => ?_
      split <;> exact Run.sendsOutbound_done rfl rfl
  · exact Run.sendsOutbound_done rfl rfl

theorem accountOp_sendsOutbound (failedNow : Bool) (w : Work) : (accountOp failedNow w).sendsOutbound w (·.2) := by
  unfold accountOp
  split
  · split
    · exact Run.sendsOutbound_from (Work.sentOutbound_of_eq rfl rfl)
        (Run.sendsOutbound_bind (resetOp_sendsOutbound _) fun r _ => Run.sendsOutbound_done rfl rfl)
    · exact Run.sendsOutbound_done rfl rfl
  · exact Run.sendsOutbound_done rfl rfl

/-- Building a packet sends nothing (R206). -/
theorem setFeatureOp_sendsOutbound (r : Byte) (ms : Nat) (c : Word32) (w : Work) :
    (setFeatureOp r ms c).sendsOutbound w (fun _ => w) := by
  rcases Nat.lt_or_ge 4294967 ms with hms | hms
  · rw [setFeatureOp_tooLong r c hms]
    trivial
  · rw [setFeatureOp_inRange r c hms]
    exact Run.sendsOutbound_done rfl rfl

theorem replayLoop_sendsOutbound (l : List ActiveEntry) (bad : Bool) (w : Work) :
    (replayLoop l bad w).sendsOutbound w (·.2) := by
  induction l generalizing bad w with
  | nil => exact Run.sendsOutbound_done rfl rfl
  | cons e rest ih =>
    exact Run.sendsOutbound_bind (setFeatureOp_sendsOutbound _ _ _ w) fun p hp =>
      Run.sendsOutbound_bind (sendOp_sendsOutbound (setFeatureOp_built hp) w) fun r _ => ih _ r.2

/-- What an outcome names as written is never a counter (R186). -/
theorem DecodeOutcome.wrote_seq {o : DecodeOutcome} {s t : Session} (h : o.wrote s t) : t.seq = s.seq := by
  cases o with
  | report k =>
    cases k with
    | rotVec | gameRotVec =>
      obtain ⟨r, -, rfl⟩ := h
      rfl
    | accel | gyro | mag | linAccel | steps | stability | activity =>
      obtain ⟨r, rfl⟩ := h
      rfl
  | handshakeAck =>
    cases h
    rfl
  | commandAck c =>
    have h : if c = 7 then ∃ r, t = { s with calib := some r } else t = s := h
    split at h
    · obtain ⟨r, rfl⟩ := h
      rfl
    · rw [h]
  | dataPresent | unrecognizedReport | incomplete =>
    cases h
    rfl

theorem recordOutcome_sentOutbound (o : DecodeOutcome) (w : Work) :
    w.sentOutbound ⟨w.session, recordOutcome o w.bus⟩ := by
  unfold recordOutcome
  split
  · exact Work.sentOutbound_raise w _
  · exact Work.sentOutbound_of_eq rfl rfl

theorem decodeOp_sendsOutbound (channel : Byte) (payload : Bytes) (w : Work) :
    (decodeOp channel payload w).sendsOutbound w (·.2) := by
  rcases decodeOp_cases channel payload w with e | ⟨r, -, -, e⟩
  · rw [e]
    trivial
  · rw [e]
    exact Work.sentOutbound_trans (recordOutcome_sentOutbound _ w)
      (Work.sentOutbound_of_eq rfl (DecodeOutcome.wrote_seq (rowAction_wrote r channel payload w.session)))

theorem pollHandshake_sendsOutbound (o : DecodeOutcome) (w : Work) :
    (pollHandshake o w).sendsOutbound w (·.2) := by
  unfold pollHandshake
  split
  · exact Run.sendsOutbound_from (v := ⟨{ w.session with fsm := .ready }, w.bus⟩) (Work.sentOutbound_of_eq rfl rfl)
      (replayLoop_sendsOutbound _ _ _)
  · exact Run.sendsOutbound_done rfl rfl

theorem pollReturn_sendsOutbound (failedNow : Bool) (c : PollClass) (o : PollOutcome) (w : Work) :
    (pollReturn failedNow c o w).sendsOutbound w (·.2) := by
  refine Run.sendsOutbound_bind (accountOp_sendsOutbound failedNow w) fun a _ => ?_
  split <;> exact Run.sendsOutbound_done rfl rfl

theorem pollPacket_sendsOutbound (channel : Byte) (payload : Bytes) (w : Work) :
    (pollPacket channel payload w).sendsOutbound w (·.2) :=
  Run.sendsOutbound_bind (decodeOp_sendsOutbound channel payload w) fun d _ =>
    Run.sendsOutbound_bind (pollHandshake_sendsOutbound d.1 d.2) fun h _ => pollReturn_sendsOutbound _ _ _ h.2

theorem pollReceive_sendsOutbound (w : Work) : (pollReceive w).sendsOutbound w (·.2) := by
  refine Run.sendsOutbound_bind (deframeOp_sendsOutbound w.session.cfg w) fun d _ => ?_
  split
  · exact pollReturn_sendsOutbound _ _ _ _
  · exact pollReturn_sendsOutbound _ _ _ _
  · exact pollReturn_sendsOutbound _ _ _ _
  · exact pollPacket_sendsOutbound _ _ _

theorem pollRetry_sendsOutbound (w : Work) : (pollRetry w).sendsOutbound w (·.2) := by
  refine Run.sendsOutbound_bind (resetOp_sendsOutbound w) fun r _ => ?_
  split <;> exact Run.sendsOutbound_done rfl rfl

/-! ### The host operations -/

theorem openOp_sendsOutbound (w : Work) : (openOp w).sendsOutbound w (·.2) := by
  unfold openOp
  split
  · refine Run.sendsOutbound_bind (resetOp_sendsOutbound w) fun r _ => ?_
    split <;> exact Run.sendsOutbound_done rfl rfl
  · trivial

theorem enableOp_sendsOutbound (r : Byte) (ms : Nat) (c : Word32) (w : Work) :
    (enableOp r ms c w).sendsOutbound w (·.2) := by
  unfold enableOp
  split
  · split
    · trivial
    refine Run.sendsOutbound_bind (setFeatureOp_sendsOutbound r ms c w) fun p hp => ?_
    refine Run.sendsOutbound_from (Work.sentOutbound_of_eq rfl rfl)
      (Run.sendsOutbound_bind (sendOp_sendsOutbound (setFeatureOp_built hp) _) fun sent _ => ?_)
    refine Run.sendsOutbound_bind (accountOp_sendsOutbound _ sent.2) fun a _ => ?_
    split <;> exact Run.sendsOutbound_done rfl rfl
  · trivial

theorem pollOp_sendsOutbound (w : Work) : (pollOp w).sendsOutbound w (·.2) := by
  unfold pollOp
  split
  · trivial
  · exact pollRetry_sendsOutbound w
  · exact pollReceive_sendsOutbound w
  · exact pollReceive_sendsOutbound w

/-! ### Session control -/

theorem operationOf_sendsOutbound {i : Instr} (hi : isSessionOperation i = true) (w : Work) :
    (operationOf i w).sendsOutbound w (·.2) := by
  cases i with
  | openSession =>
    exact Run.sendsOutbound_bind (openOp_sendsOutbound w) fun r _ => Run.sendsOutbound_done rfl rfl
  | enable r ms c =>
    exact Run.sendsOutbound_bind (enableOp_sendsOutbound r ms c w) fun r _ => Run.sendsOutbound_done rfl rfl
  | poll =>
    exact Run.sendsOutbound_bind (pollOp_sendsOutbound w) fun r _ => Run.sendsOutbound_done rfl rfl
  | resetSequence =>
    exact Run.sendsOutbound_bind (resetOp_sendsOutbound w) fun r _ => Run.sendsOutbound_done rfl rfl
  | drain =>
    exact Run.sendsOutbound_bind (drainLoop_sendsOutbound _ _ _ w) fun r _ => Run.sendsOutbound_done rfl rfl
  | replay =>
    exact Run.sendsOutbound_bind (replayLoop_sendsOutbound _ _ w) fun r _ => Run.sendsOutbound_done rfl rfl
  | account failedNow =>
    exact Run.sendsOutbound_bind (accountOp_sendsOutbound failedNow w) fun r _ => Run.sendsOutbound_done rfl rfl
  | _ => cases hi

/-- Settles O31: the events of a returned operation, and those of a waiting one with what it awaits, are read off
`operationOf_sendsOutbound`; while an operation waits the session is as it was. -/
theorem sessionSendsOnlyThreePackets : Obligations.SessionSendsOnlyThreePackets := by
  intro i s t hi h
  have hsends := operationOf_sendsOutbound hi ⟨s.session, s.bus⟩
  obtain ⟨-, ⟨r, hr, rfl⟩ | ⟨f, hf, rfl⟩⟩ := exec_next.1 h
  · rw [hr] at hsends
    obtain ⟨⟨events, hevents, hout⟩, hseq⟩ := hsends
    exact ⟨fun _ => ⟨events, hevents, fun _ _ => hout _⟩, by simp, hseq 0 (by decide) (by decide) (by decide),
      hseq 3 (by decide) (by decide) (by decide), hseq 4 (by decide) (by decide) (by decide),
      hseq 5 (by decide) (by decide) (by decide)⟩
  · rw [hf] at hsends
    obtain ⟨⟨events, hevents, hout⟩, hawaiting⟩ := hsends
    refine ⟨by simp, fun g hg => ?_, id, id, id, id⟩
    cases hg
    refine ⟨fun bytes ok hmem => hout (.write bytes ok) ?_, fun bytes hb => ?_⟩
    · simpa [hevents] using hmem
    · rwa [show f.awaiting = .write bytes from hb] at hawaiting

end Sys2Proof.Machine
end

section
/-! SUPPORT. The converter's family (44_converter.md): where `dequantize` is defined, what it then answers, and the value
of a normal binary32. -/

namespace Sys2Proof.Machine

/-! ### The domain of `dequantize` -/

theorem exponentInDomain_iff {q : Int} : exponentInDomain q = true ↔ -112 ≤ q ∧ q ≤ 127 := by simp [exponentInDomain]

theorem dequantizeOp_inDomain (raw : Word16) {q : Int} (h : -112 ≤ q ∧ q ≤ 127) :
    dequantizeOp raw q = .done (dequantizeBits raw q) := if_pos (exponentInDomain_iff.2 h)

theorem dequantizeOp_outOfDomain (raw : Word16) {q : Int} (h : ¬(-112 ≤ q ∧ q ≤ 127)) :
    dequantizeOp raw q = .refused .exponentOutOfRange := if_neg (mt exponentInDomain_iff.1 h)

/-- In its domain a `dequantize` returns its binary32 and changes nothing else (R210, R213). -/
theorem exec_dequantize {s : State} (raw : Word16) {q : Int} (hw : configWf s.session.cfg = true)
    (h : -112 ≤ q ∧ q ≤ 127) :
    exec (.dequantize raw q) s = .next (s.after (.converted (dequantizeBits raw q)) s.session s.bus) := by
  rw [exec_eq_perform]
  exact perform_done hw (r := (.converted (dequantizeBits raw q), ⟨s.session, s.bus⟩))
    (by simp [operationOf, dequantizeOp_inDomain raw h])

/-- Outside its domain a `dequantize` is refused (R213). -/
theorem exec_dequantize_refused {s : State} (raw : Word16) {q : Int} (hw : configWf s.session.cfg = true)
    (h : ¬(-112 ≤ q ∧ q ≤ 127)) : exec (.dequantize raw q) s = .refused .exponentOutOfRange := by
  rw [exec_eq_perform]
  exact perform_refused hw (by simp [operationOf, dequantizeOp_outOfDomain raw h])

/-! ### The value of a normal number -/

/-- A positive binary32 with a nonzero exponent field has the leading bit that its fraction leaves out (GK1). -/
theorem floatValue_normal {bits : Word32} {exponent fraction : Nat} (hsign : bits.getLsbD 31 = false)
    (hexponent : (bits.extractLsb' 23 8).toNat = exponent) (hfraction : (bits.extractLsb' 0 23).toNat = fraction)
    (hnormal : exponent ≠ 0) :
    floatValue bits = (2 ^ 23 + fraction) * (2 : Rat) ^ ((exponent : Int) - 150) := by
  simp only [floatValue, hsign, hexponent, hfraction, hnormal, if_false, Bool.false_eq_true, one_mul]

/-- The spec's own example (R213): 3 * 2^2 has exponent field 130 = 127 + 3 and the fraction of 1.5. -/
theorem dequantize_three_shifted_left : floatValue (dequantizeBits 3 (-2)) = 12 := by
  rw [floatValue_normal (exponent := 130) (fraction := 2 ^ 22) (by decide) (by decide) (by decide) (by decide)]
  norm_num

/-- Settles O33: `dequantize` answers as its exponent is in the domain or not, and the example lies inside it. -/
theorem dequantizeDomain : Obligations.DequantizeDomain := by
  intro s raw q hw
  refine ⟨fun hq => ⟨_, exec_dequantize raw hw hq⟩, exec_dequantize_refused raw hw, dequantizeBits 3 (-2), ?_, ?_⟩
  · exact exec_dequantize 3 hw (by decide)
  · exact dequantize_three_shifted_left

end Sys2Proof.Machine
end

section
/-! SUPPORT. The session family (45_session.md): the steps of the reset sequence and of the drain as equations, which
host operation is refused where, and what `open`, `enable` and `poll` make of the operations they are composed of. -/

namespace Sys2Proof.Machine

/-! ### An instruction as the run it performs -/

section
variable {α : Type} {i : Instr} {s t : State} {x : Run α} {f : α → Result × Work}

/-- An instruction whose run is done has returned. -/
theorem exec_of_run {a : α} (hi : operationOf i ⟨s.session, s.bus⟩ = x.bind fun a => .done (f a))
    (hw : configWf s.session.cfg = true) (hx : x = .done a) :
    exec i s = .next (s.after (f a).1 (f a).2.session (f a).2.bus) := by
  rw [exec_eq_perform]
  exact perform_done hw (by rw [hi, hx, Run.bind_done])

/-- An instruction that has returned has a run that is done. -/
theorem run_of_exec (hi : operationOf i ⟨s.session, s.bus⟩ = x.bind fun a => .done (f a))
    (h : exec i s = .next t) (hp : t.inProgress = none) :
    configWf s.session.cfg = true ∧
      ∃ a, x = .done a ∧ t = s.after (f a).1 (f a).2.session (f a).2.bus := by
  obtain ⟨r, hr, rfl⟩ := exec_returned h hp
  rw [hi] at hr
  obtain ⟨a, ha, hr⟩ := Run.bind_eq_done.1 hr
  cases hr
  exact ⟨(exec_next.1 h).1, a, ha, rfl⟩

/-- An instruction is refused as its run is. -/
theorem exec_refused_iff (hi : operationOf i ⟨s.session, s.bus⟩ = x.bind fun a => .done (f a))
    (hw : configWf s.session.cfg = true) {r : Refusal} : exec i s = .refused r ↔ x = .refused r := by
  rw [exec_eq_perform]
  cases x <;> simp [perform, hw, hi]

end

theorem exec_send_returned {s t : State} {channel : Byte} {p : Bytes} (h : exec (.send channel p) s = .next t)
    (hp : t.inProgress = none) : configWf s.session.cfg = true ∧
      ∃ r, sendOp channel p ⟨s.session, s.bus⟩ = .done r ∧ t = s.after (.sent r.1) r.2.session r.2.bus :=
  run_of_exec rfl h hp

theorem exec_deframe_returned {s t : State} (h : exec .deframe s = .next t) (hp : t.inProgress = none) :
    configWf s.session.cfg = true ∧
      ∃ d, deframeOp s.session.cfg s.bus = .done d ∧ t = s.after (.deframed d.1) s.session d.2 :=
  run_of_exec rfl h hp

theorem exec_drain {s : State} {d : ResetResult × Bus} (hw : configWf s.session.cfg = true)
    (h : drainOp s.session.cfg s.bus = .done d) : exec .drain s = .next (s.after (.reset d.1) s.session d.2) :=
  exec_of_run (i := .drain) (f := fun d => (.reset d.1, ⟨s.session, d.2⟩)) rfl hw h

theorem exec_drain_returned {s t : State} (h : exec .drain s = .next t) (hp : t.inProgress = none) :
    configWf s.session.cfg = true ∧
      ∃ d, drainOp s.session.cfg s.bus = .done d ∧ t = s.after (.reset d.1) s.session d.2 :=
  run_of_exec rfl h hp

theorem exec_resetSequence {s : State} {r : ResetResult × Work} (hw : configWf s.session.cfg = true)
    (h : resetOp ⟨s.session, s.bus⟩ = .done r) :
    exec .resetSequence s = .next (s.after (.reset r.1) r.2.session r.2.bus) :=
  exec_of_run (i := .resetSequence) (f := fun r => (.reset r.1, r.2)) rfl hw h

theorem exec_resetSequence_returned {s t : State} (h : exec .resetSequence s = .next t) (hp : t.inProgress = none) :
    configWf s.session.cfg = true ∧
      ∃ r, resetOp ⟨s.session, s.bus⟩ = .done r ∧ t = s.after (.reset r.1) r.2.session r.2.bus :=
  run_of_exec rfl h hp

theorem exec_replay_returned {s t : State} (h : exec .replay s = .next t) (hp : t.inProgress = none) :
    configWf s.session.cfg = true ∧
      ∃ r, replayOp ⟨s.session, s.bus⟩ = .done r ∧ t = s.after (.replayed r.1) r.2.session r.2.bus :=
  run_of_exec rfl h hp

theorem exec_openSession {s : State} {r : HostResult × Work} (hw : configWf s.session.cfg = true)
    (h : openOp ⟨s.session, s.bus⟩ = .done r) :
    exec .openSession s = .next (s.after (.host r.1) r.2.session r.2.bus) :=
  exec_of_run (i := .openSession) (f := fun r => (.host r.1, r.2)) rfl hw h

theorem exec_enable {s : State} {id : Byte} {ms : Nat} {c : Word32} {r : HostResult × Work}
    (hw : configWf s.session.cfg = true) (h : enableOp id ms c ⟨s.session, s.bus⟩ = .done r) :
    exec (.enable id ms c) s = .next (s.after (.host r.1) r.2.session r.2.bus) :=
  exec_of_run (i := .enable id ms c) (f := fun r => (.host r.1, r.2)) rfl hw h

theorem exec_poll {s : State} {r : (PollClass × PollOutcome) × Work} (hw : configWf s.session.cfg = true)
    (h : pollOp ⟨s.session, s.bus⟩ = .done r) :
    exec .poll s = .next (s.after (.polled r.1.1 r.1.2) r.2.session r.2.bus) :=
  exec_of_run (i := .poll) (f := fun r => (.polled r.1.1 r.1.2, r.2)) rfl hw h

/-! ### The reset sequence, step by step (R223) -/

/-- The session once the soft reset has been written: the table is zeroed where that is configured (R154, R223). -/
def Session.softResetWritten (s : Session) : Session :=
  { s with seq := if s.cfg.seqClearOnSoftReset then #v[0, 0, 0, 0, 0, 0] else s.seq }

theorem Session.softResetWritten_eq (s : Session) :
    (if s.cfg.seqClearOnSoftReset then clearSequence s else s) = s.softResetWritten := by
  unfold softResetWritten
  split <;> rfl

section
variable {w v u : Work} {b : Bus}

/-- The beginning of the reset sequence: after its three writes the soft reset is sent, with this result (R223). -/
def Work.softReset (w : Work) (ok : Bool) (v : Work) : Prop :=
  sendOp softResetPacket.1 softResetPacket.2 ⟨enterResetting w.session, w.bus⟩ = .done (ok, v)

theorem resetOp_softResetFailed (h : w.softReset false v) : resetOp w = .done (.aborted, v) := by
  unfold Work.softReset at h
  simp [resetOp, h]

theorem resetOp_drainAborted (h : w.softReset true v) (hd : drainOp v.session.cfg v.bus = .done (.aborted, b)) :
    resetOp w = .done (.aborted, ⟨v.session.softResetWritten, b⟩) := by
  unfold Work.softReset at h
  simp only [resetOp, h, Run.bind_done, if_true, Session.softResetWritten_eq]
  rw [show drainOp v.session.softResetWritten.cfg v.bus = _ from hd, Run.bind_done]

/-- After a completed drain the product-id request decides how the sequence ends. -/
theorem resetOp_drained {ok : Bool} (h : w.softReset true v)
    (hd : drainOp v.session.cfg v.bus = .done (.completed, b))
    (hq : sendOp productIdPacket.1 productIdPacket.2 ⟨v.session.softResetWritten, b⟩ = .done (ok, u)) :
    resetOp w = .done (if ok then (.completed, ⟨{ u.session with fsm := .awaitingHandshake }, u.bus⟩)
      else (.aborted, u)) := by
  unfold Work.softReset at h
  simp only [resetOp, h, Run.bind_done, if_true, Session.softResetWritten_eq]
  rw [show drainOp v.session.softResetWritten.cfg v.bus = _ from hd, Run.bind_done]
  simp only [hq, Run.bind_done]
  cases ok <;> rfl

end

/-- Settles O34: each step that has returned is one of the three `resetOp` equations. -/
theorem resetSequenceComposes : Obligations.ResetSequenceComposes := by
  intro s t1 h1
  have hw : configWf s.session.cfg = true := (exec_next.1 h1).1
  refine ⟨fun hr hp => ?_, fun hr hp t2 h2 hp2 => ?_⟩ <;>
    obtain ⟨-, ⟨ok, v⟩, hs, rfl⟩ := exec_send_returned h1 hp <;>
    cases hr
  · exact exec_resetSequence hw (resetOp_softResetFailed hs)
  have hcfg : v.session.cfg = s.session.cfg := sendOp_cfg hs
  rw [← hcfg] at h2
  obtain ⟨-, ⟨e, b⟩, hd, rfl⟩ := exec_drain_returned h2 hp2
  refine ⟨fun hr => ?_, fun hr t3 h3 hp3 => ?_⟩ <;> cases hr
  · exact exec_resetSequence hw (resetOp_drainAborted hs hd)
  obtain ⟨-, ⟨ok, u⟩, hq, rfl⟩ := exec_send_returned h3 hp3
  have hreset := exec_resetSequence hw (resetOp_drained hs hd hq)
  refine ⟨fun hr => ?_, fun hr => ?_⟩ <;> cases hr <;> exact hreset

/-! ### The drain, deframe by deframe (R224) -/

theorem drainLoop_ended (cfg : Config) (fuel : Nat) {empties : Nat} (b : Bus) (he : 2 ≤ empties) :
    drainLoop cfg fuel empties b = .done (.completed, b) := by
  cases fuel <;> simp [drainLoop, Nat.not_lt.2 he]

theorem drainLoop_unlisted (cfg : Config) (fuel : Nat) {empties : Nat} {b : Bus} (he : empties < 2)
    (h : b.answers = []) : drainLoop cfg fuel empties b = .waits ⟨b.history, .read 4⟩ := by
  cases fuel <;> simp [drainLoop, he, deframeOp_unlisted h]

/-- How a drain goes on after a deframe, the rest of it given for each count of "no data" and transport. -/
def drainNext (rest : Nat → Bus → Run (ResetResult × Bus)) (empties : Nat) (d : DeframeResult × Bus) :
    Run (ResetResult × Bus) :=
  match d.1 with
  | .noData => rest (empties + 1) d.2
  | .packet _ _ _ _ => rest 0 d.2
  | .transportError => .done (.aborted, d.2)
  | .truncated => .done (.aborted, d.2)

theorem drainLoop_succ (cfg : Config) (fuel : Nat) {empties : Nat} (b : Bus) (he : empties < 2) :
    drainLoop cfg (fuel + 1) empties b = (deframeOp cfg b).bind (drainNext (drainLoop cfg fuel) empties) := by
  rw [drainLoop, if_pos he]
  rfl

/-- Bounds on the number of deframes that are no less than the number of listed answers are never met. -/
theorem drainLoop_fuel (cfg : Config) {m n empties : Nat} {b : Bus} (hm : b.answers.length ≤ m)
    (hn : b.answers.length ≤ n) : drainLoop cfg m empties b = drainLoop cfg n empties b := by
  induction m generalizing n empties b with
  | zero =>
    rcases Nat.lt_or_ge empties 2 with he | he
    · have hb := List.length_eq_zero_iff.1 (Nat.le_zero.1 hm)
      rw [drainLoop_unlisted _ _ he hb, drainLoop_unlisted _ _ he hb]
    · rw [drainLoop_ended _ _ _ he, drainLoop_ended _ _ _ he]
  | succ m ih =>
    rcases Nat.lt_or_ge empties 2 with he | he
    · cases n with
      | zero =>
        have hb := List.length_eq_zero_iff.1 (Nat.le_zero.1 hn)
        rw [drainLoop_unlisted _ _ he hb, drainLoop_unlisted _ _ he hb]
      | succ n =>
        rw [drainLoop_succ _ _ _ he, drainLoop_succ _ _ _ he]
        cases hd : deframeOp cfg b with
        | waits f => rfl
        | refused r => rfl
        | done d =>
          obtain ⟨result, c⟩ := d
          have hlt : c.answers.length < b.answers.length := deframeOp_answers hd
          have hcm : c.answers.length ≤ m := by omega
          have hcn : c.answers.length ≤ n := by omega
          cases result with
          | noData | packet => exact ih hcm hcn
          | transportError | truncated => rfl
    · rw [drainLoop_ended _ _ _ he, drainLoop_ended _ _ _ he]

/-- The drain after so many consecutive "no data". -/
def drainFrom (cfg : Config) (empties : Nat) (b : Bus) : Run (ResetResult × Bus) :=
  drainLoop cfg b.answers.length empties b

theorem drainOp_eq_drainFrom (cfg : Config) (b : Bus) : drainOp cfg b = drainFrom cfg 0 b := rfl

/-- After two consecutive "no data" the drain has completed. -/
theorem drainFrom_two (cfg : Config) (b : Bus) : drainFrom cfg 2 b = .done (.completed, b) :=
  drainLoop_ended _ _ _ (Nat.le_refl 2)

/-- The drain is a deframe and what follows it. -/
theorem drainFrom_deframed {cfg : Config} {empties : Nat} {b : Bus} {d : DeframeResult × Bus} (he : empties < 2)
    (hd : deframeOp cfg b = .done d) : drainFrom cfg empties b = drainNext (drainFrom cfg) empties d := by
  have hlt := deframeOp_answers hd
  obtain ⟨k, hk⟩ : ∃ k, b.answers.length = k + 1 := ⟨b.answers.length - 1, by omega⟩
  have hrest : ∀ n, drainLoop cfg k n d.2 = drainFrom cfg n d.2 :=
    fun n => drainLoop_fuel cfg (by omega) (Nat.le_refl _)
  rw [drainFrom, hk, drainLoop_succ _ _ _ he, hd, Run.bind_done, drainNext, drainNext, hrest, hrest]

/-- Settles O38: the drain is its deframes one after another, at most two of them here, and `drainNext` after each. -/
theorem drainRepeatsDeframe : Obligations.DrainRepeatsDeframe := by
  intro s t _ ht hp hr
  obtain ⟨hw, ⟨d, b⟩, hd, rfl⟩ := exec_deframe_returned ht hp
  cases hr
  have hfirst : drainOp s.session.cfg s.bus = drainNext (drainFrom s.session.cfg) 0 (d, b) :=
    drainFrom_deframed (by decide) hd
  refine ⟨rfl, ?_, ?_, ?_⟩
  · rintro (rfl | rfl) <;> exact exec_drain hw hfirst
  · rintro ⟨c, q, p, o, rfl⟩ u hu hp
    obtain ⟨-, e, he, rfl⟩ := exec_drain_returned hu hp
    exact exec_drain hw (hfirst.trans he)
  · rintro rfl u _ hu hp hr
    obtain ⟨-, ⟨e, c⟩, hd, rfl⟩ := exec_deframe_returned hu hp
    cases hr
    have hsecond : drainOp s.session.cfg s.bus = drainNext (drainFrom s.session.cfg) 1 (e, c) :=
      hfirst.trans (drainFrom_deframed (by decide) hd)
    refine ⟨?_, ?_, ?_⟩
    · rintro rfl
      exact exec_drain hw (hsecond.trans (drainFrom_two _ _))
    · rintro (rfl | rfl) <;> exact exec_drain hw hsecond
    · rintro ⟨c', q, p, o, rfl⟩ v hv hp
      obtain ⟨-, f, hf, rfl⟩ := exec_drain_returned hv hp
      exact exec_drain hw (hsecond.trans hf)

/-! ### `open` (R222) -/

theorem openAdmitted_iff {f : Fsm} : openAdmitted f = true ↔ f = .uninitialized ∨ f = .resetting := by
  cases f <;> simp [openAdmitted]

theorem openAdmitted_eq_false {f : Fsm} : openAdmitted f = false ↔ f = .awaitingHandshake ∨ f = .ready := by
  cases f <;> simp [openAdmitted]

theorem openOp_notAdmitted {w : Work} (h : openAdmitted w.session.fsm = false) :
    openOp w = .refused .notAdmitted := by simp [openOp, h]

theorem openOp_completed {w v : Work} (ha : openAdmitted w.session.fsm = true)
    (h : resetOp w = .done (.completed, v)) : openOp w = .done (.ok, v) := by simp [openOp, ha, h]

theorem openOp_aborted {w v : Work} (ha : openAdmitted w.session.fsm = true)
    (h : resetOp w = .done (.aborted, v)) : openOp w = .done (.failed, v) := by simp [openOp, ha, h]

/-- The state in which the reset sequence ends tells how it ended (R223). -/
theorem resetOp_fsm {w v : Work} {r : ResetResult} (h : resetOp w = .done (r, v)) :
    v.session.fsm = match r with | .completed => .awaitingHandshake | .aborted => .resetting := by
  obtain ⟨hr, hv⟩ | ⟨hr, hv⟩ := resetOp_session h <;> cases hr <;> exact congrArg Session.fsm hv

/-- Settles O37: where `open` is admitted it ends as the reset sequence does, in the state of `resetOp_fsm`. -/
theorem openRunsTheResetSequence : Obligations.OpenRunsTheResetSequence := by
  intro s hw
  refine ⟨fun hf => (exec_refused_iff rfl hw).2 ?_, fun hf t ht hp => ?_⟩
  · exact openOp_notAdmitted (openAdmitted_eq_false.2 hf)
  have ha := openAdmitted_iff.2 hf
  obtain ⟨-, ⟨r, v⟩, hv, rfl⟩ := exec_resetSequence_returned ht hp
  refine ⟨fun hr => ?_, fun hr => ?_⟩ <;> cases hr
  · exact ⟨exec_openSession hw (openOp_completed ha hv), resetOp_fsm hv⟩
  · exact ⟨exec_openSession hw (openOp_aborted ha hv), resetOp_fsm hv⟩

/-! ### Admission (R221) -/

/-- The run is not refused for the state of `S.fsm`; it may await the transport, or be refused on another ground. -/
def Run.admitted {α : Type} (x : Run α) : Prop := x ≠ .refused .notAdmitted

theorem Run.admitted_done {α : Type} (a : α) : (Run.done a).admitted := nofun

theorem Run.admitted_bind {α β : Type} {x : Run α} {f : α → Run β} (h : x.admitted) (k : ∀ a, (f a).admitted) :
    (x.bind f).admitted := by
  cases x with
  | done a => exact k a
  | waits f => nofun
  | refused r => exact fun e => h (congrArg Run.refused (Run.refused.inj e))

theorem Run.admitted_ite {α : Type} {c : Prop} [Decidable c] {x y : Run α} (h : x.admitted) (k : y.admitted) :
    (if c then x else y).admitted := by split <;> assumption

theorem busRead_admitted (n : Nat) (b : Bus) : (busRead n b).admitted := by
  unfold busRead
  split <;> nofun

theorem sendOp_admitted (channel : Byte) (payload : Bytes) (w : Work) : (sendOp channel payload w).admitted := by
  refine Run.admitted_bind (by unfold nextSequenceOp; split <;> nofun) fun st => ?_
  refine Run.admitted_bind (by unfold frameOp; split <;> nofun) fun bytes => ?_
  refine Run.admitted_ite nofun (Run.admitted_bind ?_ fun _ => Run.admitted_done _)
  unfold busWrite
  split <;> nofun

theorem readChunks_admitted (cfg : Config) (fuel remaining : Nat) (payload : Bytes) (b : Bus) :
    (readChunks cfg fuel remaining payload b).admitted := by
  induction fuel generalizing remaining payload b with
  | zero => exact Run.admitted_done _
  | succ fuel ih =>
    refine Run.admitted_ite (Run.admitted_done _) (Run.admitted_bind (busRead_admitted _ b) fun c => ?_)
    split
    · exact Run.admitted_done _
    · exact ih _ _ _

theorem deframeOp_admitted (cfg : Config) (b : Bus) : (deframeOp cfg b).admitted := by
  refine Run.admitted_bind (busRead_admitted 4 b) fun p => ?_
  split
  · exact Run.admitted_done _
  refine Run.admitted_ite (Run.admitted_done _) (Run.admitted_ite (Run.admitted_done _) ?_)
  refine Run.admitted_bind (readChunks_admitted cfg _ _ _ _) fun q => ?_
  split <;> exact Run.admitted_done _

theorem drainLoop_admitted (cfg : Config) (fuel empties : Nat) (b : Bus) :
    (drainLoop cfg fuel empties b).admitted := by
  induction fuel generalizing empties b with
  | zero => exact Run.admitted_ite nofun (Run.admitted_done _)
  | succ fuel ih =>
    refine Run.admitted_ite (Run.admitted_bind (deframeOp_admitted cfg b) fun d => ?_) (Run.admitted_done _)
    split
    · exact ih _ _
    · exact ih _ _
    · exact Run.admitted_done _
    · exact Run.admitted_done _

theorem resetOp_admitted (w : Work) : (resetOp w).admitted := by
  refine Run.admitted_bind (sendOp_admitted _ _ _) fun r => Run.admitted_ite ?_ (Run.admitted_done _)
  refine Run.admitted_bind (drainLoop_admitted _ _ _ _) fun d => ?_
  split
  · exact Run.admitted_done _
  · exact Run.admitted_bind (sendOp_admitted _ _ _) fun q =>
      Run.admitted_ite (Run.admitted_done _) (Run.admitted_done _)

theorem accountOp_admitted (failedNow : Bool) (w : Work) : (accountOp failedNow w).admitted :=
  Run.admitted_ite
    (Run.admitted_ite (Run.admitted_bind (resetOp_admitted _) fun _ => Run.admitted_done _) (Run.admitted_done _))
    (Run.admitted_done _)

theorem setFeatureOp_admitted (r : Byte) (ms : Nat) (c : Word32) : (setFeatureOp r ms c).admitted :=
  Run.admitted_ite nofun (Run.admitted_done _)

theorem replayLoop_admitted (l : List ActiveEntry) (bad : Bool) (w : Work) : (replayLoop l bad w).admitted := by
  induction l generalizing bad w with
  | nil => exact Run.admitted_done _
  | cons e rest ih =>
    exact Run.admitted_bind (setFeatureOp_admitted _ _ _) fun p =>
      Run.admitted_bind (sendOp_admitted _ _ w) fun r => ih _ _

theorem decodeOp_admitted (channel : Byte) (payload : Bytes) (w : Work) :
    (decodeOp channel payload w).admitted := by
  rcases decodeOp_cases channel payload w with e | ⟨r, -, -, e⟩ <;> rw [e] <;> nofun

theorem pollReturn_admitted (failedNow : Bool) (c : PollClass) (o : PollOutcome) (w : Work) :
    (pollReturn failedNow c o w).admitted := by
  refine Run.admitted_bind (accountOp_admitted failedNow w) fun a => ?_
  split <;> exact Run.admitted_done _

theorem pollReceive_admitted (w : Work) : (pollReceive w).admitted := by
  refine Run.admitted_bind (deframeOp_admitted w.session.cfg w.bus) fun d => ?_
  split
  · exact pollReturn_admitted _ _ _ _
  · exact pollReturn_admitted _ _ _ _
  · exact pollReturn_admitted _ _ _ _
  · refine Run.admitted_bind (decodeOp_admitted _ _ _) fun o => ?_
    refine Run.admitted_bind (Run.admitted_ite ?_ (Run.admitted_done _)) fun h => pollReturn_admitted _ _ _ _
    exact replayLoop_admitted _ _ _

theorem pollRetry_admitted (w : Work) : (pollRetry w).admitted := by
  refine Run.admitted_bind (resetOp_admitted w) fun r => ?_
  split <;> exact Run.admitted_done _

theorem openOp_admitted {w : Work} (h : openAdmitted w.session.fsm = true) : (openOp w).admitted := by
  rw [openOp, if_pos h]
  refine Run.admitted_bind (resetOp_admitted w) fun r => ?_
  split <;> exact Run.admitted_done _

theorem openOp_refused_iff (w : Work) :
    openOp w = .refused .notAdmitted ↔ w.session.fsm = .awaitingHandshake ∨ w.session.fsm = .ready := by
  rw [← openAdmitted_eq_false]
  exact ⟨fun h => Bool.eq_false_iff.2 fun ha => openOp_admitted ha h, openOp_notAdmitted⟩

theorem enableOp_admitted {w : Work} (r : Byte) (ms : Nat) (c : Word32) (h : w.session.fsm = .ready) :
    (enableOp r ms c w).admitted := by
  rw [enableOp, if_pos h]
  refine Run.admitted_ite nofun (Run.admitted_bind (setFeatureOp_admitted r ms c) fun p => ?_)
  refine Run.admitted_bind (sendOp_admitted _ _ _) fun sent => Run.admitted_bind (accountOp_admitted _ _) fun a => ?_
  split <;> exact Run.admitted_done _

theorem enableOp_notReady {w : Work} (r : Byte) (ms : Nat) (c : Word32) (h : w.session.fsm ≠ .ready) :
    enableOp r ms c w = .refused .notAdmitted := if_neg h

theorem enableOp_refused_iff (r : Byte) (ms : Nat) (c : Word32) (w : Work) :
    enableOp r ms c w = .refused .notAdmitted ↔ w.session.fsm ≠ .ready :=
  ⟨fun h hf => enableOp_admitted r ms c hf h, enableOp_notReady r ms c⟩

theorem pollOp_refused_iff (w : Work) :
    pollOp w = .refused .notAdmitted ↔ w.session.fsm = .uninitialized := by
  cases hf : w.session.fsm <;> simp only [pollOp, hf, reduceCtorEq, iff_false]
  · exact pollRetry_admitted w
  · exact pollReceive_admitted w
  · exact pollReceive_admitted w

/-- Settles O39: an instruction is refused as its run is, and each run as its state says. -/
theorem hostAdmission : Obligations.HostAdmission := by
  intro s hw
  exact ⟨(exec_refused_iff rfl hw).trans (openOp_refused_iff ⟨s.session, s.bus⟩),
    fun r ms c => (exec_refused_iff rfl hw).trans (enableOp_refused_iff r ms c ⟨s.session, s.bus⟩),
    (exec_refused_iff rfl hw).trans (pollOp_refused_iff ⟨s.session, s.bus⟩)⟩

/-! ### Accounting (R229, R230) -/

/-- The reset sequence clears the count, so that it does not matter what it was (R223). -/
theorem resetOp_failCount (w : Work) (n : Nat) :
    resetOp { w with session := { w.session with failCount := n } } = resetOp w := rfl

theorem accountOp_cleared (w : Work) :
    accountOp false w = .done (.normal, { w with session := { w.session with failCount := 0 } }) := rfl

theorem accountOp_absorbed {w : Work} (h : w.session.failCount + 1 < w.session.cfg.failThreshold) :
    accountOp true w =
      .done (.normal, { w with session := { w.session with failCount := w.session.failCount + 1 } }) := by
  simp [accountOp, Nat.not_le.2 h]

theorem accountOp_tripped {w : Work} {r : ResetResult × Work}
    (h : w.session.cfg.failThreshold ≤ w.session.failCount + 1) (hr : resetOp w = .done r) :
    accountOp true w = .done (.tripped, r.2) := by
  simp [accountOp, h, resetOp_failCount, hr]

/-! ### `enable` (R225) -/

/-- A write to the record is found under its id, and every other id finds what it found before (R25). -/
theorem activeLookup_activeWrite (e : ActiveEntry) (l : List ActiveEntry) (id : Byte) :
    activeLookup id (activeWrite e l) = if id = e.reportId then some e else activeLookup id l := by
  induction l with
  | nil => simp [activeWrite, activeLookup, eq_comm]
  | cons f rest ih =>
    unfold activeWrite
    split
    · simp [activeLookup, eq_comm]
    · split
      next heq =>
        by_cases hid : id = e.reportId
        · simp [activeLookup, hid]
        · simp [activeLookup, hid, Ne.symm hid, ← heq]
      next hne =>
        by_cases hf : f.reportId = id
        · simp [activeLookup, hf, Ne.symm (hf ▸ hne)]
        · simp [activeLookup, hf, ih]

/-- After the write of `enable`: the request recorded, the set-feature packet sent with this answer (R225). -/
def Work.enableWritten (w : Work) (e : ActiveEntry) (a : Answer) : Work where
  session := { w.session with
    active := activeWrite e w.session.active, seq := w.session.seq.set 2 (w.session.seq[2] + 1) }
  bus := w.bus.advance 1 (writeEvents
    (setFeatureImage w.session.seq[2] e.reportId (BitVec.ofNat 32 (e.intervalMillis * 1000)) e.specificConfig) a)

section
variable {w v : Work} {e : ActiveEntry} {a : Answer} {rest : List Answer}

theorem sendOp_enableWritten (hc : 21 ≤ w.session.cfg.ceiling) (ha : w.bus.answers = a :: rest) :
    sendOp Channel.control.code
        (setFeaturePayload e.reportId (BitVec.ofNat 32 (e.intervalMillis * 1000)) e.specificConfig)
        { w with session := { w.session with active := activeWrite e w.session.active } } =
      .done (writeResult a, w.enableWritten e a) := by
  rw [Work.enableWritten, ← packetBytes_setFeature]
  exact sendOp_listed (by decide) (show 17 ≤ 32763 by decide) hc ha

/-- What `enable` returns of its accounting. -/
def enableReturn (r : AccountResult × Work) : Run (HostResult × Work) :=
  match r.1 with
  | .tripped => .done (.failed, r.2)
  | .normal => .done (.ok, r.2)

/-- An `enable` in its domain is its write and the accounting of the answer. -/
theorem enableOp_listed (hf : w.session.fsm = .ready) (hms : e.intervalMillis ≤ 4294967)
    (hc : 21 ≤ w.session.cfg.ceiling) (ha : w.bus.answers = a :: rest) :
    enableOp e.reportId e.intervalMillis e.specificConfig w =
      (accountOp (!writeResult a) (w.enableWritten e a)).bind enableReturn := by
  rw [enableOp, if_pos hf, if_neg (Nat.not_lt.2 hms), setFeatureOp_inRange _ _ hms, Run.bind_done,
    sendOp_enableWritten hc ha]
  rfl

end

theorem enableOp_tooLong {w : Work} {ms : Nat} (r : Byte) (c : Word32) (hf : w.session.fsm = .ready)
    (hms : 4294967 < ms) : enableOp r ms c w = .refused .intervalTooLong := by simp [enableOp, hf, hms]

/-- Settles O41: after the write the answer chooses the equation of the accounting, which `enableReturn` turns into the
result. -/
theorem enableRecordsAndSends : Obligations.EnableRecordsAndSends := by
  intro s r ms c hw
  obtain ⟨hceil, -⟩ := configWf_ceiling hw
  refine ⟨fun hf hms => ?_, fun hf => (exec_refused_iff rfl hw).2 (enableOp_notReady r ms c hf),
    fun hf hms => (exec_refused_iff rfl hw).2 (enableOp_tooLong r c hf hms),
    activeLookup_activeWrite ⟨r, ms, c⟩ s.session.active⟩
  have hrun {a rest} :=
    enableOp_listed (w := ⟨s.session, s.bus⟩) (e := ⟨r, ms, c⟩) (a := a) (rest := rest) hf hms hceil
  refine ⟨fun x rest ha => ?_, fun rest ha hlt => ?_, fun rest t ha hle ht hp => ?_⟩
  · exact exec_enable hw ((hrun ha).trans (Run.bind_eq_done.2 ⟨_, accountOp_cleared _, rfl⟩))
  · exact exec_enable hw ((hrun ha).trans (Run.bind_eq_done.2 ⟨_, accountOp_absorbed hlt, rfl⟩))
  · obtain ⟨-, q, hq, rfl⟩ := exec_resetSequence_returned ht hp
    exact exec_enable hw ((hrun ha).trans (Run.bind_eq_done.2 ⟨_, accountOp_tripped hle hq, rfl⟩))

/-! ### `poll` (R226, R231) -/

theorem pollReturn_normal {failedNow : Bool} {w v : Work} (c : PollClass) (o : PollOutcome)
    (h : accountOp failedNow w = .done (.normal, v)) : pollReturn failedNow c o w = .done ((c, o), v) := by
  simp [pollReturn, h]

theorem pollReturn_tripped {failedNow : Bool} {w v : Work} (c : PollClass) (o : PollOutcome)
    (h : accountOp failedNow w = .done (.tripped, v)) : pollReturn failedNow c o w = .done ((.failed, o), v) := by
  simp [pollReturn, h]

section
variable {s : State} {u : Work} {c : PollClass} {o : PollOutcome}

/-- A `poll` without a transport failure clears the count. -/
theorem exec_poll_cleared (hw : configWf s.session.cfg = true)
    (h : pollOp ⟨s.session, s.bus⟩ = pollReturn false c o u) :
    exec .poll s = .next (s.after (.polled c o) { u.session with failCount := 0 } u.bus) :=
  exec_poll hw (h.trans (pollReturn_normal c o (accountOp_cleared u)))

/-- A `poll` with a transport failure below the threshold counts it. -/
theorem exec_poll_absorbed (hw : configWf s.session.cfg = true)
    (h : pollOp ⟨s.session, s.bus⟩ = pollReturn true c o u)
    (hlt : u.session.failCount + 1 < u.session.cfg.failThreshold) :
    exec .poll s = .next (s.after (.polled c o) { u.session with failCount := u.session.failCount + 1 } u.bus) :=
  exec_poll hw (h.trans (pollReturn_normal c o (accountOp_absorbed hlt)))

/-- A `poll` with a transport failure at the threshold runs the reset sequence and has failed. -/
theorem exec_poll_tripped {r : ResetResult × Work} (hw : configWf s.session.cfg = true)
    (h : pollOp ⟨s.session, s.bus⟩ = pollReturn true c o u)
    (hle : u.session.cfg.failThreshold ≤ u.session.failCount + 1) (hr : resetOp u = .done r) :
    exec .poll s = .next (s.after (.polled .failed o) r.2.session r.2.bus) :=
  exec_poll hw (h.trans (pollReturn_tripped c o (accountOp_tripped hle hr)))

end

theorem pollOp_uninitialized {w : Work} (h : w.session.fsm = .uninitialized) :
    pollOp w = .refused .notAdmitted := by simp [pollOp, h]

theorem pollOp_completed {w v : Work} (hf : w.session.fsm = .resetting) (h : resetOp w = .done (.completed, v)) :
    pollOp w = .done ((.noData, .resetCompleted), v) := by simp [pollOp, hf, pollRetry, h]

theorem pollOp_aborted {w v : Work} (hf : w.session.fsm = .resetting) (h : resetOp w = .done (.aborted, v)) :
    pollOp w = .done ((.failed, .resetAborted), v) := by simp [pollOp, hf, pollRetry, h]

section
variable {w : Work} {b : Bus} (hf : w.session.fsm = .awaitingHandshake ∨ w.session.fsm = .ready)
include hf

theorem pollOp_receives : pollOp w = pollReceive w := by rcases hf with h | h <;> simp [pollOp, h]

theorem pollOp_noData (h : deframeOp w.session.cfg w.bus = .done (.noData, b)) :
    pollOp w = pollReturn false .noData .noData ⟨w.session, b⟩ := by
  simp [pollOp_receives hf, pollReceive, h]

/-- The two results of a deframe that are transport failures are the outcomes of the same name. -/
theorem pollOp_failed {d : DeframeResult} {o : PollOutcome}
    (ho : (d = .transportError ∧ o = .transportError) ∨ (d = .truncated ∧ o = .truncated))
    (h : deframeOp w.session.cfg w.bus = .done (d, b)) :
    pollOp w = pollReturn true .noData o ⟨w.session, b⟩ := by
  obtain ⟨rfl, rfl⟩ | ⟨rfl, rfl⟩ := ho <;> simp [pollOp_receives hf, pollReceive, h]

/-- With a packet in hand: what it decodes to, the handshake taken or not, and the accounting of its failures. -/
theorem pollOp_packet {channel sequence : Byte} {payload : Bytes} {overflow bad : Bool} {o : DecodeOutcome}
    {v u : Work} (h : deframeOp w.session.cfg w.bus = .done (.packet channel sequence payload overflow, b))
    (hd : decodeOp channel payload ⟨w.session, b⟩ = .done (o, v)) (hh : pollHandshake o v = .done (bad, u)) :
    pollOp w = pollReturn bad (classOf o) (.decoded o) u := by
  simp [pollOp_receives hf, pollReceive, pollPacket, h, hd, hh]

end

theorem pollHandshake_skipped {o : DecodeOutcome} {w : Work}
    (h : ¬(o = .handshakeAck ∧ w.session.fsm = .awaitingHandshake)) : pollHandshake o w = .done (false, w) :=
  if_neg h

theorem pollHandshake_taken {w : Work} (h : w.session.fsm = .awaitingHandshake) :
    pollHandshake .handshakeAck w = handshakeOp w := if_pos ⟨rfl, h⟩

theorem handshakeAck_wrote {s t : Session} :
    DecodeOutcome.handshakeAck.wrote s t ↔ t = { s with handshakeComplete := true } := Iff.rfl

/-- All that a `decode` that answers a next state can have done. -/
theorem exec_decode_returned {s t : State} {channel : Byte} {p : Bytes} (h : exec (.decode channel p) s = .next t) :
    ∃ o v, decodeOp channel p ⟨s.session, s.bus⟩ = .done (o, v) ∧ o.wrote s.session v.session ∧
      t = s.after (.decoded o) v.session v.bus := by
  obtain ⟨r, hc, hl, rfl⟩ := exec_decode_next h
  exact ⟨_, _, decodeOp_inDomain (w := ⟨s.session, s.bus⟩) hc hl, rowAction_wrote r channel p s.session, rfl⟩

/-- Settles O42: the end of the deframe chooses the `pollOp` equation, and the failures the one of the accounting. -/
theorem pollComposes : Obligations.PollComposes := by
  intro s hw
  refine ⟨fun hf => (exec_refused_iff rfl hw).2 (pollOp_uninitialized hf), fun hf t ht hp => ?_, ?_⟩
  · obtain ⟨-, ⟨r, v⟩, hv, rfl⟩ := exec_resetSequence_returned ht hp
    refine ⟨fun hr => ?_, fun hr => ?_⟩ <;> cases hr
    · exact exec_poll hw (pollOp_completed hf hv)
    · exact exec_poll hw (pollOp_aborted hf hv)
  intro u _ hf hu hp hr
  obtain ⟨-, ⟨d, b⟩, hd, rfl⟩ := exec_deframe_returned hu hp
  cases hr
  refine ⟨fun o ho => ⟨fun hlt => ?_, fun hle v hv hp => ?_⟩, ?_, ?_⟩
  · exact exec_poll_absorbed hw (pollOp_failed hf ho hd) hlt
  · obtain ⟨-, r, hr, rfl⟩ := exec_resetSequence_returned hv hp
    exact exec_poll_tripped hw (pollOp_failed hf ho hd) hle hr
  · rintro rfl
    exact exec_poll_cleared hw (pollOp_noData hf hd)
  rintro channel sequence payload overflow rfl v o hv hr
  obtain ⟨_, v, hdec, hwrote, rfl⟩ := exec_decode_returned hv
  cases hr
  refine ⟨fun ho => ?_, ?_⟩
  · have hskip : ¬(o = .handshakeAck ∧ v.session.fsm = .awaitingHandshake) := by
      rintro ⟨rfl, hfsm⟩
      rw [handshakeAck_wrote.1 hwrote] at hfsm
      rcases ho with ho | ho
      · exact ho rfl
      · cases ho.symm.trans hfsm
    have hrun := pollOp_packet (w := ⟨s.session, s.bus⟩) hf hd hdec (pollHandshake_skipped hskip)
    have hpoll := exec_poll_cleared hw hrun
    cases o <;> exact hpoll
  rintro rfl hawaits w _ hreplay hp hr
  obtain ⟨-, ⟨bad, u⟩, hu, rfl⟩ := exec_replay_returned hreplay hp
  cases hr
  have hv : v.session = { s.session with handshakeComplete := true } := handshakeAck_wrote.1 hwrote
  have hreplayed : u.session = { v.session with fsm := .ready, seq := u.session.seq } :=
    handshakeOp_session (w := v) hu
  have hcount : u.session.failCount = s.session.failCount := by rw [hreplayed, hv]
  have hcfg : u.session.cfg = s.session.cfg := by rw [hreplayed, hv]
  have hawaits : v.session.fsm = .awaitingHandshake := by rw [hv]; exact hawaits
  have hrun := pollOp_packet (w := ⟨s.session, s.bus⟩) hf hd hdec ((pollHandshake_taken hawaits).trans hu)
  refine ⟨?_, ?_, ?_⟩
  · rintro rfl
    exact exec_poll_cleared hw hrun
  · rintro rfl hlt
    rw [← hcount] at hlt ⊢
    exact exec_poll_absorbed hw hrun (hcfg ▸ hlt)
  · rintro rfl hle x hx hp
    rw [← hcount, ← hcfg] at hle
    obtain ⟨-, r, hr, rfl⟩ := exec_resetSequence_returned hx hp
    exact exec_poll_tripped hw hrun hle hr
end Sys2Proof.Machine
end

section
/-! SUPPORT. The family of power-on and reset (70_reset_and_hazards.md): how a drain is abandoned, the ways the reset
sequence ends with the table it leaves, and what `open` does at power-on. -/

namespace Sys2Proof.Machine

/-! ### An abandoned drain ends in a failed read (R140, R224) -/

/-- The last two events are a read that failed and the condition raised for it (R140). -/
def Bus.endsInFailedRead (b : Bus) : Prop := ∃ before n c, b.history = before ++ [.read n none, .raised c]

theorem raise_endsInFailedRead {b : Bus} {before : List Event} {n : Nat} (c : Condition)
    (h : b.history = before ++ [.read n none]) : (raise c b).endsInFailedRead := ⟨before, n, c, by simp [h]⟩

/-- A read that returns has taken one listed answer. -/
theorem busRead_done {n : Nat} {b : Bus} {r : Option Bytes × Bus} (h : busRead n b = .done r) :
    ∃ a, r = (readResult n a, b.advance 1 [.read n (readResult n a)]) := by
  cases hb : b.answers with
  | nil => rw [busRead_unlisted n hb] at h; cases h
  | cons a rest => rw [busRead_listed n hb] at h; cases h; exact ⟨a, rfl⟩

theorem busRead_failed {n : Nat} {b c : Bus} (h : busRead n b = .done (none, c)) :
    c.history = b.history ++ [.read n none] := by
  obtain ⟨a, hr⟩ := busRead_done h
  obtain ⟨hnone, rfl⟩ := Prod.mk.inj hr
  rw [← hnone, Bus.advance_history]

/-- A chunk loop fails at one of its reads, its last (R140). -/
theorem readChunks_failed {cfg : Config} {fuel remaining : Nat} {held : Bytes} {b c : Bus}
    (h : readChunks cfg fuel remaining held b = .done (none, c)) :
    ∃ before n, c.history = before ++ [.read n none] := by
  induction fuel generalizing remaining held b with
  | zero => cases h
  | succ fuel ih =>
    unfold readChunks at h
    split at h
    · cases h
    · obtain ⟨⟨answer, d⟩, hr, h⟩ := Run.bind_eq_done.1 h
      cases answer with
      | none => cases h; exact ⟨_, _, busRead_failed hr⟩
      | some bytes => exact ih h

theorem header_read_of_length {bytes : Bytes} (h : bytes.length = 4) : ∃ header, Header.read bytes = some header :=
  match bytes, h with
  | [_, _, _, _], _ => ⟨_, rfl⟩

/-- After its probe a deframe fails only by a chunk read, and then it is `truncated`. -/
theorem afterProbe_failed {cfg : Config} {h : Header} {b c : Bus} {d : DeframeResult}
    (hd : d = .transportError ∨ d = .truncated) (e : afterProbe cfg h b = .done (d, c)) : c.endsInFailedRead := by
  unfold afterProbe at e
  split at e
  · cases e; simp at hd
  split at e
  · cases e; simp at hd
  obtain ⟨⟨payload, p⟩, hp, e⟩ := Run.bind_eq_done.1 e
  cases payload with
  | none =>
    cases e
    obtain ⟨before, n, hn⟩ := readChunks_failed hp
    exact raise_endsInFailedRead .truncated hn
  | some payload => cases e; simp at hd

/-- A deframe fails by its probe or by a chunk read (R140); four bytes that arrive are always a header. -/
theorem deframeOp_failed {cfg : Config} {b c : Bus} {d : DeframeResult}
    (hd : d = .transportError ∨ d = .truncated) (h : deframeOp cfg b = .done (d, c)) : c.endsInFailedRead := by
  obtain ⟨⟨probe, p⟩, hp, h⟩ := Run.bind_eq_done.1 h
  cases probe with
  | none => cases h; exact raise_endsInFailedRead .transportError (busRead_failed hp)
  | some bytes =>
    obtain ⟨a, ha⟩ := busRead_done hp
    obtain ⟨header, hh⟩ := header_read_of_length (readResult_length (congrArg Prod.fst ha).symm)
    simp only [Option.bind_some, hh] at h
    exact afterProbe_failed hd h

theorem drainLoop_aborted {cfg : Config} {fuel empties : Nat} {b c : Bus}
    (h : drainLoop cfg fuel empties b = .done (.aborted, c)) : c.endsInFailedRead := by
  induction fuel generalizing empties b with
  | zero => unfold drainLoop at h; split at h <;> cases h
  | succ fuel ih =>
    rcases Nat.lt_or_ge empties 2 with he | he
    · rw [drainLoop_succ _ _ _ he] at h
      obtain ⟨⟨result, d⟩, hd, h⟩ := Run.bind_eq_done.1 h
      cases result with
      | noData | packet => exact ih h
      | transportError => cases h; exact deframeOp_failed (.inl rfl) hd
      | truncated => cases h; exact deframeOp_failed (.inr rfl) hd
    · rw [drainLoop_ended _ _ _ he] at h; cases h

/-! ### How the reset sequence ends (R223, R293) -/

section
variable {w v : Work} {b : Bus}

/-- All the ways the reset sequence returns: the soft reset failed, the drain was abandoned, or the product-id request
was written. -/
theorem resetOp_done {r : ResetResult} (h : resetOp w = .done (r, v)) :
    (w.softReset false v ∧ r = .aborted) ∨
    ∃ x b, w.softReset true x ∧
      ((drainOp x.session.cfg x.bus = .done (.aborted, b) ∧ r = .aborted ∧ v = ⟨x.session.softResetWritten, b⟩) ∨
       (drainOp x.session.cfg x.bus = .done (.completed, b) ∧
        ∃ ok u, sendOp productIdPacket.1 productIdPacket.2 ⟨x.session.softResetWritten, b⟩ = .done (ok, u) ∧
          (r, v) = if ok then (.completed, ⟨{ u.session with fsm := .awaitingHandshake }, u.bus⟩)
            else (.aborted, u))) := by
  have h0 := h
  obtain ⟨⟨ok, x⟩, hs, h⟩ := Run.bind_eq_done.1 h
  cases ok with
  | false => cases h; exact .inl ⟨hs, rfl⟩
  | true =>
    simp only [if_true, Session.softResetWritten_eq] at h
    obtain ⟨⟨ending, b⟩, hd, h⟩ := Run.bind_eq_done.1 h
    refine .inr ⟨x, b, hs, ?_⟩
    cases ending with
    | aborted => cases h; exact .inl ⟨hd, rfl, rfl⟩
    | completed =>
      obtain ⟨⟨ok, u⟩, hq, -⟩ := Run.bind_eq_done.1 h
      rw [resetOp_drained hs hd hq] at h0
      exact .inr ⟨hd, ok, u, hq, (Run.done.inj h0).symm⟩

/-- The soft-reset write ends as its answer says, and has spent a number of EXECUTABLE. -/
theorem Work.softReset_listed {ok : Bool} {a : Answer} {rest : List Answer} (ha : w.bus.answers = a :: rest)
    (h : w.softReset ok v) :
    ok = writeResult a ∧ v.session.cfg = w.session.cfg ∧
      v.session.seq = w.session.seq.set 1 (w.session.seq[1] + 1) := by
  obtain ⟨_, a', rest', -, -, ha', hv⟩ := sendOp_done h
  obtain ⟨rfl, -⟩ := List.cons.inj (ha.symm.trans ha')
  obtain ⟨rfl, rfl⟩ := Prod.mk.inj hv
  exact ⟨rfl, rfl, rfl⟩

theorem writeEvents_failed {bytes : Bytes} {a : Answer} (h : writeResult a = false) :
    writeEvents bytes a = [.write bytes false, .raised .transportError] := by simp [writeEvents, h]

/-- The product-id request has spent a number of CONTROL whatever its answer; failed, it is the last transaction. -/
theorem productId_sent {s : Session} {ok : Bool}
    (h : sendOp productIdPacket.1 productIdPacket.2 ⟨s, b⟩ = .done (ok, v)) :
    v.session.seq = s.seq.set 2 (s.seq[2] + 1) ∧
    (ok = false → v.bus.history = b.history ++ [.write (productIdImage s.seq[2]) false, .raised .transportError]) := by
  obtain ⟨_, a, rest, -, -, -, hv⟩ := sendOp_done h
  obtain ⟨rfl, rfl⟩ := Prod.mk.inj hv
  refine ⟨rfl, fun hf => ?_⟩
  rw [Bus.advance_history, writeEvents_failed hf, ← packetBytes_productId]
  rfl

end

/-- Settles O36: what stays is `resetOp_session`; the table is the one after the writes of `resetOp_done`, and an
abandoned drain shows its failed read last. -/
theorem resetSequenceKeepsAndChanges : Obligations.ResetSequenceKeepsAndChanges := by
  intro s t a rest ha ht hp
  obtain ⟨-, ⟨r, v⟩, hr, rfl⟩ := exec_resetSequence_returned ht hp
  have hfsm := resetOp_fsm hr
  refine ⟨?_, ?_⟩
  · obtain ⟨-, hv⟩ | ⟨-, hv⟩ := resetOp_session hr <;> exact hv.trans (by rw [hv]; rfl)
  obtain ⟨hs, rfl⟩ | ⟨x, b, hs, hend⟩ := resetOp_done hr <;>
    obtain ⟨hok, hcfg, hseq⟩ := Work.softReset_listed ha hs
  · exact ⟨fun _ => ⟨rfl, hfsm, hseq⟩, fun hwritten => by simp [hwritten] at hok⟩
  have htable : x.session.softResetWritten.seq = if s.session.cfg.seqClearOnSoftReset then #v[0, 0, 0, 0, 0, 0]
      else s.session.seq.set 1 (s.session.seq[1] + 1) := by rw [← hseq, ← hcfg]; rfl
  refine ⟨fun hwritten => by simp [hwritten] at hok, fun _ => ?_⟩
  simp only [← htable]
  obtain ⟨hd, rfl, rfl⟩ | ⟨hd, ok, u, hq, he⟩ := hend
  · exact .inr ⟨rfl, hfsm, .inr ⟨rfl, drainLoop_aborted hd⟩⟩
  obtain ⟨hnumber, hhistory⟩ := productId_sent hq
  cases ok with
  | true => cases he; exact .inl ⟨rfl, hfsm, hnumber⟩
  | false => cases he; exact .inr ⟨rfl, hfsm, .inl ⟨hnumber, _, hhistory rfl⟩⟩

/-! ### Power-on (R290) -/

/-- With no answer listed the reset sequence awaits its first write. -/
theorem resetOp_unlisted {w : Work} (hw : configWf w.session.cfg = true) (ha : w.bus.answers = []) :
    ∃ f, resetOp w = .waits f := by
  obtain ⟨hceil, -⟩ := configWf_ceiling hw
  have hs := sendOp_unlisted (channel := softResetPacket.1) (payload := softResetPacket.2)
    (w := ⟨enterResetting w.session, w.bus⟩) (by decide) (by decide) (Nat.le_trans (by decide) hceil) ha
  exact ⟨_, by rw [resetOp, hs, Run.bind_waits]⟩

/-- At power-on `open` is admitted: it issues its first write and awaits the result. -/
theorem exec_openSession_unlisted {s : State} (hw : configWf s.session.cfg = true)
    (hf : openAdmitted s.session.fsm = true) (ha : s.bus.answers = []) : ∃ t, exec .openSession s = .next t := by
  obtain ⟨f, hr⟩ := resetOp_unlisted (w := ⟨s.session, s.bus⟩) hw ha
  exact ⟨_, exec_next.2 ⟨hw, .inr ⟨f, by simp [operationOf, openOp, hf, hr], rfl⟩⟩⟩

/-- Settles O1: the values are those of `State.reset`, and which operation is refused is `hostAdmission`. -/
theorem resetStateIsPowerOn : Obligations.ResetStateIsPowerOn := by
  intro c hw s
  obtain ⟨-, henable, hpoll⟩ := hostAdmission s hw
  have hopen : ∃ t, exec .openSession s = .next t := exec_openSession_unlisted hw rfl rfl
  have hnotReady : s.session.fsm ≠ .ready := nofun
  exact ⟨rfl, rfl, rfl, rfl, fun _ => rfl, rfl, rfl, rfl, rfl, rfl, rfl, rfl, rfl, rfl, rfl, rfl, hopen,
    fun r ms x => (henable r ms x).2 hnotReady, hpoll.2 rfl⟩

end Sys2Proof.Machine
end

section
/-! SUPPORT. The family of the whole machine, first part: what one step and one action can do, how every operation meets
further answers (R75), and what every operation does to the transport (R65, R82). -/

namespace Sys2Proof.Machine

/-! ### One action and one step -/

/-- A client read as an operation (R27, R37). -/
def readOperation (p : Port) (w : Work) : Run (Result × Work) :=
  match readPort p w.session with
  | some v => .done (.viewed v, w)
  | none => .refused .noValue

theorem clientRead_eq_perform (p : Port) (s : State) : clientRead p s = perform s (readOperation p) := rfl

theorem readOperation_some {p : Port} {w : Work} {v : View} (h : readPort p w.session = some v) :
    readOperation p w = .done (.viewed v, w) := by simp [readOperation, h]

theorem readOperation_none {p : Port} {w : Work} (h : readPort p w.session = none) :
    readOperation p w = .refused .noValue := by simp [readOperation, h]

/-- A client read delivers what the port shows and changes nothing else, or is refused (R27, R233). -/
theorem clientRead_next {p : Port} {s t : State} (h : clientRead p s = .next t) :
    ∃ v, readPort p s.session = some v ∧ t = s.after (.viewed v) s.session s.bus := by
  rw [clientRead_eq_perform, perform_next] at h
  obtain ⟨-, h⟩ := h
  cases hv : readPort p s.session with
  | none => simp [readOperation_none (w := ⟨s.session, s.bus⟩) hv] at h
  | some v => exact ⟨v, rfl, by simpa [readOperation_some (w := ⟨s.session, s.bus⟩) hv] using h⟩

theorem runCall_next {i : Instr} {s t : State} (h : runCall i s = .next t) : exec i s = .next t := by
  unfold runCall at h
  split at h
  · exact h
  · cases h

theorem runWire_next {f : Form} {bytes : Bytes} {s t : State} (h : runWire f bytes s = .next t) :
    ∃ i, decode f bytes = .ok i ∧ exec i s = .next t := by
  unfold runWire at h
  split at h
  · exact ⟨_, ‹_›, h⟩
  · cases h

/-- All that one action can answer with a next state: an instruction was executed, or a port was read. -/
theorem runAction_next {a : Action} {s t : State} (h : runAction a s = .next t) :
    (∃ i, exec i s = .next t) ∨
    ∃ p v, readPort p s.session = some v ∧ t = s.after (.viewed v) s.session s.bus := by
  cases a with
  | call i => exact .inl ⟨i, runCall_next h⟩
  | wire f bytes =>
    obtain ⟨i, -, hi⟩ := runWire_next h
    exact .inl ⟨i, hi⟩
  | read p => exact .inr ⟨p, clientRead_next h⟩

/-- The state with its first action taken off the list once the operation has returned (R234, log 19). -/
def State.retired (t : State) (rest : List Action) : State :=
  if t.inProgress = none then { t with pending := rest } else t

theorem State.retired_session (t : State) (rest : List Action) : (t.retired rest).session = t.session := by
  unfold State.retired; split <;> rfl

theorem State.retired_of_returned {t : State} (h : t.inProgress = none) (rest : List Action) :
    t.retired rest = { t with pending := rest } := if_pos h

theorem State.retired_of_waiting {t : State} (h : t.inProgress ≠ none) (rest : List Action) :
    t.retired rest = t := if_neg h

theorem State.retired_inProgress (t : State) (rest : List Action) : (t.retired rest).inProgress = t.inProgress := by
  unfold State.retired; split <;> rfl

theorem retire_next {t : State} : retire (.next t) = .next (t.retired t.pending.tail) := by
  cases h : t.inProgress <;> simp [retire, State.retired, h]

theorem runNext_cons {s : State} {a : Action} {rest : List Action} (hp : s.pending = a :: rest) :
    step s = retire (runAction a s) := by simp [step, runNext, hp]

/-- A step whose action executes an instruction takes the action off the list once that has returned. -/
theorem step_of_next {s t : State} {a : Action} {rest : List Action} {i : Instr} (hp : s.pending = a :: rest)
    (ha : runAction a s = exec i s) (h : exec i s = .next t) : step s = .next (t.retired rest) := by
  rw [runNext_cons hp, ha, h, retire_next, exec_pending h, hp, List.tail_cons]

theorem step_of_refused {s : State} {a : Action} {rest : List Action} {r : Refusal} (hp : s.pending = a :: rest)
    (ha : runAction a s = .refused r) : step s = .refused r := by rw [runNext_cons hp, ha]; rfl

/-- All that a step with something to do can answer with a next state. -/
theorem step_next {s t : State} {a : Action} {rest : List Action} (hp : s.pending = a :: rest)
    (h : step s = .next t) :
    (∃ i u, exec i s = .next u ∧ t = u.retired rest) ∨
    ∃ p v, readPort p s.session = some v ∧
      t = { s.after (.viewed v) s.session s.bus with pending := rest } := by
  rw [runNext_cons hp] at h
  cases ha : runAction a s with
  | fault r => rw [ha] at h; cases h
  | refused r => rw [ha] at h; cases h
  | next u =>
    rw [ha, retire_next] at h
    cases h
    obtain ⟨i, hi⟩ | ⟨p, v, hv, rfl⟩ := runAction_next ha
    · exact .inl ⟨i, u, hi, by rw [exec_pending hi, hp]; rfl⟩
    · exact .inr ⟨p, v, hv, by rw [State.retired_of_returned rfl, State.after_pending, hp]; rfl⟩

/-- Settles O2: bytes at the unit that reads them run as the instruction they decode to. -/
theorem stepRunsDecodedInstruction : Obligations.StepRunsDecodedInstruction := by
  intro s f bytes rest hp
  refine ⟨fun i hi => ?_, fun e he => step_of_refused hp (by simp [runAction, runWire, he])⟩
  have ha : runAction (.wire f bytes) s = exec i s := by simp [runAction, runWire, hi]
  cases he : exec i s with
  | next t => exact step_of_next hp ha he
  | fault r => cases r
  | refused r => exact step_of_refused hp (ha.trans he)

/-- Settles O3: an instruction called by name runs as it is, or is refused for its operands. -/
theorem stepRunsCalledOperation : Obligations.StepRunsCalledOperation := by
  intro s rest i hp
  refine ⟨fun hi => ?_, fun hi => step_of_refused hp (by simp [runAction, runCall, hi])⟩
  have ha : runAction (.call i) s = exec i s := by simp [runAction, runCall, hi]
  cases he : exec i s with
  | next t => exact step_of_next hp ha he
  | fault r => cases r
  | refused r => exact step_of_refused hp (ha.trans he)

/-- Settles O4: with nothing pending the step is the identity, and a client read is the operation `readOperation`. -/
theorem stepIdlesAndReads : Obligations.StepIdlesAndReads := by
  intro s
  refine ⟨fun hp => by simp [step, runNext, hp], fun p rest hp hw => ⟨fun v hv => ?_, fun hv => ?_⟩⟩
  · have hread : runAction (.read p) s = .next (s.after (.viewed v) s.session s.bus) :=
      perform_done hw (readOperation_some hv)
    rw [runNext_cons hp, hread, retire_next, State.retired_of_returned rfl, State.after_pending, hp]
    rfl
  · exact step_of_refused hp (perform_refused hw (readOperation_none hv))

/-- Settles O48: every clause of the invariant reads a value that power-on gives. -/
theorem resetMeetsInvariant : Obligations.ResetMeetsInvariant := by
  intro c hw
  obtain ⟨-, hthreshold⟩ := configWf_capacity hw
  exact ⟨hw, hthreshold, nofun, rfl, nofun, nofun⟩

/-! ### Further answers (R75) -/

/-- The pair of a result and what it was worked on, with further answers listed. -/
def withMoreAnswers {α : Type} (more : List Answer) (r : α × Work) : α × Work := (r.1, r.2.withMore more)

section
variable {α β : Type} {more : List Answer} {x x' : Run (α × Work)} {k : α × Work → Run (β × Work)}

/-- One run after another, where only the transport's further answers tell the two apart. -/
theorem Run.carries_then (h : x.carries (withMoreAnswers more) x')
    (hk : ∀ a w, x = .done (a, w) → (k (a, w)).carries (withMoreAnswers more) (k (a, w.withMore more))) :
    (x.bind k).carries (withMoreAnswers more) (x'.bind k) := Run.carries_bind h fun r hr => hk r.1 r.2 hr

end

theorem openOp_carries (w : Work) (more : List Answer) :
    (openOp w).carries (withMoreAnswers more) (openOp (w.withMore more)) := by
  refine Run.carries_ite (fun _ => ?_) fun _ => Run.carries_refused _
  refine Run.carries_then (resetOp_carries w more) fun r v _ => ?_
  cases r <;> exact Run.carries_done rfl

theorem enableOp_carries (r : Byte) (ms : Nat) (c : Word32) (w : Work) (more : List Answer) :
    (enableOp r ms c w).carries (withMoreAnswers more) (enableOp r ms c (w.withMore more)) := by
  refine Run.carries_ite (fun _ => ?_) fun _ => Run.carries_refused _
  refine Run.carries_ite (fun _ => Run.carries_refused _) fun _ => ?_
  refine Run.carries_bind_same _ fun p _ => ?_
  refine Run.carries_then (sendOp_carries _ _ _ more) fun ok v _ => ?_
  refine Run.carries_then (accountOp_carries _ v more) fun a u _ => ?_
  cases a <;> exact Run.carries_done rfl

theorem pollReturn_carries (failedNow : Bool) (c : PollClass) (o : PollOutcome) (w : Work) (more : List Answer) :
    (pollReturn failedNow c o w).carries (withMoreAnswers more) (pollReturn failedNow c o (w.withMore more)) := by
  refine Run.carries_then (accountOp_carries failedNow w more) fun a v _ => ?_
  cases a <;> exact Run.carries_done rfl

theorem pollHandshake_carries (o : DecodeOutcome) (w : Work) (more : List Answer) :
    (pollHandshake o w).carries (withMoreAnswers more) (pollHandshake o (w.withMore more)) :=
  Run.carries_ite (fun _ => replayOp_carries { w with session := { w.session with fsm := .ready } } more)
    fun _ => Run.carries_done rfl

theorem pollPacket_carries (channel : Byte) (payload : Bytes) (w : Work) (more : List Answer) :
    (pollPacket channel payload w).carries (withMoreAnswers more) (pollPacket channel payload (w.withMore more)) :=
  Run.carries_then (decodeOp_carries channel payload w more) fun o v _ =>
    Run.carries_then (pollHandshake_carries o v more) fun _ u _ => pollReturn_carries _ _ _ u more

theorem pollReceive_carries (w : Work) (more : List Answer) :
    (pollReceive w).carries (withMoreAnswers more) (pollReceive (w.withMore more)) := by
  refine Run.carries_bind (deframeOp_carries w.session.cfg w.bus more) fun d _ => ?_
  obtain ⟨result, b⟩ := d
  cases result with
  | noData | transportError | truncated => exact pollReturn_carries _ _ _ ⟨w.session, b⟩ more
  | packet channel sequence payload overflow => exact pollPacket_carries channel payload ⟨w.session, b⟩ more

theorem pollOp_carries (w : Work) (more : List Answer) :
    (pollOp w).carries (withMoreAnswers more) (pollOp (w.withMore more)) := by
  have hfsm : (w.withMore more).session.fsm = w.session.fsm := rfl
  cases hf : w.session.fsm with
  | uninitialized => simp only [pollOp, hfsm, hf]; exact Run.carries_refused _
  | resetting =>
    simp only [pollOp, hfsm, hf]
    refine Run.carries_then (resetOp_carries w more) fun r v _ => ?_
    cases r <;> exact Run.carries_done rfl
  | awaitingHandshake | ready => simp only [pollOp, hfsm, hf]; exact pollReceive_carries w more

/-- A decode action takes no answer. -/
theorem actionOperation_carries (action : Bytes → Session → DecodeOutcome × Session) (p : Bytes) (w : Work)
    (more : List Answer) :
    (actionOperation action p w).carries (withMoreAnswers more) (actionOperation action p (w.withMore more)) :=
  Run.carries_done (by simp only [decodeAction, Work.withMore, recordOutcome_withMore, withMoreAnswers])

/-- No operation depends on an answer that it has not taken (R75). -/
theorem operationOf_carries (i : Instr) (w : Work) (more : List Answer) :
    (operationOf i w).carries (withMoreAnswers more) (operationOf i (w.withMore more)) := by
  cases i with
  | inPidr | inCmdr | inCtrlOther | inAccel | inGyro | inMag | inLinAccel | inRotVec | inGameRotVec | inSteps
  | inStability | inActivity | inSubOther | inReportsOther | inCh0 | inChOther =>
    exact actionOperation_carries _ _ w more
  | outSetf | outSrst | outPidq | send =>
    exact Run.carries_then (sendOp_carries _ _ w more) fun _ _ _ => Run.carries_done rfl
  | header h =>
    exact Run.carries_bind (afterProbe_carries w.session.cfg h w.bus more) fun _ _ => Run.carries_done rfl
  | openSession => exact Run.carries_then (openOp_carries w more) fun _ _ _ => Run.carries_done rfl
  | enable r ms c => exact Run.carries_then (enableOp_carries r ms c w more) fun _ _ _ => Run.carries_done rfl
  | poll => exact Run.carries_then (pollOp_carries w more) fun _ _ _ => Run.carries_done rfl
  | resetSequence => exact Run.carries_then (resetOp_carries w more) fun _ _ _ => Run.carries_done rfl
  | drain => exact Run.carries_bind (drainOp_carries w.session.cfg w.bus more) fun _ _ => Run.carries_done rfl
  | replay => exact Run.carries_then (replayOp_carries w more) fun _ _ _ => Run.carries_done rfl
  | account failedNow =>
    exact Run.carries_then (accountOp_carries failedNow w more) fun _ _ _ => Run.carries_done rfl
  | frame | nextSequence | buildSetFeature | dequantize =>
    exact Run.carries_bind_same _ fun _ _ => Run.carries_done rfl
  | deframe => exact Run.carries_bind (deframeOp_carries w.session.cfg w.bus more) fun _ _ => Run.carries_done rfl
  | decode channel payload =>
    exact Run.carries_then (decodeOp_carries channel payload w more) fun _ _ _ => Run.carries_done rfl
  | buildSoftReset | buildProductIdRequest => exact Run.carries_done rfl

/-- All the ways an instruction is refused. -/
theorem exec_refused {i : Instr} {s : State} {r : Refusal} (h : exec i s = .refused r) :
    (configWf s.session.cfg = false ∧ r = .illFormedConfig) ∨
    (configWf s.session.cfg = true ∧ operationOf i ⟨s.session, s.bus⟩ = .refused r) := by
  rw [exec_eq_perform] at h
  cases hw : configWf s.session.cfg with
  | false => rw [perform_illFormed _ hw] at h; cases h; exact .inl ⟨rfl, rfl⟩
  | true =>
    refine .inr ⟨rfl, ?_⟩
    cases ho : operationOf i ⟨s.session, s.bus⟩ <;> simp [perform, hw, ho] at h
    exact congrArg _ h

/-- Settles O51: a run that is done or refused is carried over to the longer list of answers. -/
theorem furtherAnswersChangeNothing : Obligations.FurtherAnswersChangeNothing := by
  intro i s more
  obtain ⟨hdone, hrefused⟩ := operationOf_carries i ⟨s.session, s.bus⟩ more
  refine ⟨fun t h hp => ?_, fun r h => ?_⟩
  · have hw : configWf s.session.cfg = true := (exec_next.1 h).1
    obtain ⟨r, hr, rfl⟩ := exec_returned h hp
    rw [exec_eq_perform]
    exact perform_done (s := s.withMore more) hw (hdone r hr)
  · rw [exec_eq_perform]
    obtain ⟨hw, rfl⟩ | ⟨hw, hr⟩ := exec_refused h
    · exact perform_illFormed (s := s.withMore more) _ hw
    · exact perform_refused (s := s.withMore more) hw (hrefused r hr)

/-! ### What an operation does to the session -/

/-- After the reset sequence, however it ended: the counters cleared, the state as it ended, and nothing else but the
sequence table touched (R223, R293). -/
def Session.restarted (s t : Session) : Prop :=
  (t.fsm = .awaitingHandshake ∨ t.fsm = .resetting) ∧ t = { enterResetting s with fsm := t.fsm, seq := t.seq }

theorem resetOp_restarted {w : Work} {r : ResetResult × Work} (h : resetOp w = .done r) :
    w.session.restarted r.2.session := by
  obtain ⟨-, e⟩ | ⟨-, e⟩ := resetOp_session h
  · have hf : r.2.session.fsm = .awaitingHandshake := by rw [e]
    exact ⟨.inl hf, by rw [hf]; exact e⟩
  · have hf : r.2.session.fsm = .resetting := by rw [e]; rfl
    exact ⟨.inr hf, by rw [hf]; exact e⟩

/-- What the accounting leaves: a count below the threshold and nothing else changed, or a restarted session. -/
theorem accountOp_session {failedNow : Bool} {w : Work} {r : AccountResult × Work}
    (hw : configWf w.session.cfg = true) (h : accountOp failedNow w = .done r) :
    (r.1 = .normal ∧ ∃ n < w.session.cfg.failThreshold, r.2.session = { w.session with failCount := n }) ∨
    (r.1 = .tripped ∧ w.session.restarted r.2.session) := by
  obtain ⟨-, rfl⟩ | ⟨-, hlt, rfl⟩ | ⟨-, -, hr, q, hq⟩ := accountOp_done h
  · exact .inl ⟨rfl, 0, (configWf_capacity hw).2, rfl⟩
  · exact .inl ⟨rfl, _, hlt, rfl⟩
  · exact .inr ⟨hr, resetOp_restarted hq⟩

theorem Session.restarted.cfg {s t : Session} (h : s.restarted t) : t.cfg = s.cfg := (congrArg Session.cfg h.2).trans rfl

/-- What an outcome names as written lies in the slots and the handshake flag (R186). -/
theorem DecodeOutcome.wrote_control {o : DecodeOutcome} {s t : Session} (h : o.wrote s t) :
    t = { t with cfg := s.cfg, fsm := s.fsm, seq := s.seq, failCount := s.failCount, active := s.active } := by
  cases o with
  | report k =>
    cases k with
    | rotVec | gameRotVec =>
      obtain ⟨r, -, rfl⟩ := h
      rfl
    | accel | gyro | mag | linAccel | steps | stability | activity =>
      obtain ⟨r, rfl⟩ := h
      rfl
  | handshakeAck =>
    cases h
    rfl
  | commandAck c =>
    have h : if c = 7 then ∃ r, t = { s with calib := some r } else t = s := h
    split at h
    · obtain ⟨r, rfl⟩ := h
      rfl
    · rw [h]
  | dataPresent | unrecognizedReport | incomplete =>
    cases h
    rfl

/-- What a decode action leaves of the session besides the slots and the handshake flag: all as it was. -/
theorem rowAction_control (r : InRow) (channel : Byte) (p : Bytes) (s : Session) :
    (rowAction r channel p s).2 = { (rowAction r channel p s).2 with
      cfg := s.cfg, fsm := s.fsm, seq := s.seq, failCount := s.failCount, active := s.active } :=
  DecodeOutcome.wrote_control (rowAction_wrote r channel p s)

theorem rowAction_cfg (r : InRow) (channel : Byte) (p : Bytes) (s : Session) :
    (rowAction r channel p s).2.cfg = s.cfg := (congrArg Session.cfg (rowAction_control r channel p s)).trans rfl

theorem rowAction_fsm (r : InRow) (channel : Byte) (p : Bytes) (s : Session) :
    (rowAction r channel p s).2.fsm = s.fsm := (congrArg Session.fsm (rowAction_control r channel p s)).trans rfl

/-- A `decode` that returns is the action of a row. -/
theorem decodeOp_done {channel : Byte} {p : Bytes} {w : Work} {r : DecodeOutcome × Work}
    (h : decodeOp channel p w = .done r) : ∃ row, r = decodeAction (rowAction row channel p) w := by
  obtain e | ⟨row, -, -, e⟩ := decodeOp_cases channel p w
  · rw [e] at h; cases h
  · rw [e] at h; cases h; exact ⟨row, rfl⟩

theorem decodeOp_cfg {channel : Byte} {p : Bytes} {w : Work} {r : DecodeOutcome × Work}
    (h : decodeOp channel p w = .done r) : r.2.session.cfg = w.session.cfg := by
  obtain ⟨row, rfl⟩ := decodeOp_done h
  exact rowAction_cfg row channel p w.session

theorem pollHandshake_done {o : DecodeOutcome} {w : Work} {r : Bool × Work} (h : pollHandshake o w = .done r) :
    (¬(o = .handshakeAck ∧ w.session.fsm = .awaitingHandshake) ∧ r = (false, w)) ∨
    (o = .handshakeAck ∧ w.session.fsm = .awaitingHandshake ∧
      r.2.session = { w.session with fsm := .ready, seq := r.2.session.seq }) := by
  unfold pollHandshake at h
  split at h
  next hc => exact .inr ⟨hc.1, hc.2, handshakeOp_session h⟩
  next hc => cases h; exact .inl ⟨hc, rfl⟩

theorem pollHandshake_cfg {o : DecodeOutcome} {w : Work} {r : Bool × Work} (h : pollHandshake o w = .done r) :
    r.2.session.cfg = w.session.cfg := by
  obtain ⟨-, rfl⟩ | ⟨-, -, e⟩ := pollHandshake_done h
  · rfl
  · exact (congrArg Session.cfg e).trans rfl

/-- The two ways a `poll` returns from its accounting (R226, R230). -/
theorem pollReturn_done {failedNow : Bool} {c : PollClass} {o : PollOutcome} {w : Work}
    {r : (PollClass × PollOutcome) × Work} (h : pollReturn failedNow c o w = .done r) :
    (r.1 = (c, o) ∧ accountOp failedNow w = .done (.normal, r.2)) ∨
    (r.1 = (.failed, o) ∧ accountOp failedNow w = .done (.tripped, r.2)) := by
  obtain ⟨⟨a, v⟩, ha, h⟩ := Run.bind_eq_done.1 h
  cases a <;> cases h
  · exact .inl ⟨rfl, ha⟩
  · exact .inr ⟨rfl, ha⟩

/-- What a `poll` that receives makes of the session before its accounting: nothing, what a decode action writes, or
the handshake (R226, R227). -/
inductive Session.Received (s : Session) : PollClass → PollOutcome → Session → Prop where
  | kept (c : PollClass) (o : PollOutcome) : Received s c o s
  | decoded (row : InRow) (channel : Byte) (payload : Bytes) (c : PollClass) (o : PollOutcome) :
    Received s c o (rowAction row channel payload s).2
  | handshake (seq : Vector Byte nchan) : s.fsm = .awaitingHandshake →
    Received s .newData (.decoded .handshakeAck) { s with handshakeComplete := true, fsm := .ready, seq := seq }

theorem Session.Received.cfg {s t : Session} {c : PollClass} {o : PollOutcome} (h : s.Received c o t) :
    t.cfg = s.cfg := by
  cases h with
  | kept => rfl
  | decoded row channel payload => exact rowAction_cfg row channel payload s
  | handshake => rfl

theorem pollPacket_done {channel : Byte} {payload : Bytes} {w : Work} {r : (PollClass × PollOutcome) × Work}
    (h : pollPacket channel payload w = .done r) :
    ∃ failedNow c o u, pollReturn failedNow c o u = .done r ∧ w.session.Received c o u.session := by
  obtain ⟨⟨o, v⟩, hd, h⟩ := Run.bind_eq_done.1 h
  obtain ⟨⟨bad, u⟩, hh, h⟩ := Run.bind_eq_done.1 h
  refine ⟨bad, classOf o, .decoded o, u, h, ?_⟩
  obtain ⟨row, hrow⟩ := decodeOp_done hd
  obtain ⟨rfl, rfl⟩ := Prod.mk.inj hrow
  obtain ⟨-, e⟩ | ⟨hack, hfsm, e⟩ := pollHandshake_done hh
  · cases e
    exact .decoded row channel payload _ _
  · have hfsm : w.session.fsm = .awaitingHandshake := (rowAction_fsm row channel payload w.session).symm.trans hfsm
    have hwrote := rowAction_wrote row channel payload w.session
    rw [hack, handshakeAck_wrote] at hwrote
    have hu : u.session =
        { w.session with handshakeComplete := true, fsm := .ready, seq := u.session.seq } := by
      rw [e]; simp only [hwrote]
    rw [hack, hu]
    exact .handshake _ hfsm

theorem pollReceive_done {w : Work} {r : (PollClass × PollOutcome) × Work} (h : pollReceive w = .done r) :
    ∃ failedNow c o u, pollReturn failedNow c o u = .done r ∧ w.session.Received c o u.session := by
  obtain ⟨⟨d, b⟩, -, h⟩ := Run.bind_eq_done.1 h
  cases d with
  | noData | transportError | truncated => exact ⟨_, _, _, ⟨w.session, b⟩, h, .kept _ _⟩
  | packet channel sequence payload overflow => exact pollPacket_done (w := ⟨w.session, b⟩) h

/-- All the ways a `poll` returns (R226). -/
theorem pollOp_done {w : Work} {r : (PollClass × PollOutcome) × Work} (h : pollOp w = .done r) :
    (w.session.fsm = .resetting ∧ w.session.restarted r.2.session) ∨
    ((w.session.fsm = .awaitingHandshake ∨ w.session.fsm = .ready) ∧
      ∃ failedNow c o u, pollReturn failedNow c o u = .done r ∧ w.session.Received c o u.session) := by
  unfold pollOp at h
  split at h
  · cases h
  next hf =>
    obtain ⟨⟨q, v⟩, hr, h⟩ := Run.bind_eq_done.1 h
    refine .inl ⟨hf, ?_⟩
    cases q <;> cases h <;> exact resetOp_restarted hr
  next hf => exact .inr ⟨.inl hf, pollReceive_done h⟩
  next hf => exact .inr ⟨.inr hf, pollReceive_done h⟩

/-- All the ways an `open` returns (R222). -/
theorem openOp_done {w : Work} {r : HostResult × Work} (h : openOp w = .done r) :
    (w.session.fsm = .uninitialized ∨ w.session.fsm = .resetting) ∧ w.session.restarted r.2.session := by
  unfold openOp at h
  split at h
  next hf =>
    obtain ⟨⟨q, v⟩, hr, h⟩ := Run.bind_eq_done.1 h
    refine ⟨openAdmitted_iff.1 hf, ?_⟩
    cases q <;> cases h <;> exact resetOp_restarted hr
  · cases h

/-- All the ways an `enable` returns: the request recorded and sent, then the accounting (R225). -/
theorem enableOp_done {id : Byte} {ms : Nat} {c : Word32} {w : Work} {r : HostResult × Work}
    (h : enableOp id ms c w = .done r) :
    w.session.fsm = .ready ∧ ms ≤ 4294967 ∧ ∃ failedNow u,
      u.session = { w.session with active := activeWrite ⟨id, ms, c⟩ w.session.active, seq := u.session.seq } ∧
      ((r.1 = .ok ∧ accountOp failedNow u = .done (.normal, r.2)) ∨
       (r.1 = .failed ∧ accountOp failedNow u = .done (.tripped, r.2))) := by
  unfold enableOp at h
  split at h
  next hf =>
    split at h
    · cases h
    next hms =>
      obtain ⟨p, -, h⟩ := Run.bind_eq_done.1 h
      obtain ⟨⟨ok, u⟩, hs, h⟩ := Run.bind_eq_done.1 h
      obtain ⟨⟨a, v⟩, ha, h⟩ := Run.bind_eq_done.1 h
      refine ⟨hf, Nat.not_lt.1 hms, !ok, u, sendOp_session hs, ?_⟩
      cases a <;> cases h
      · exact .inl ⟨rfl, ha⟩
      · exact .inr ⟨rfl, ha⟩
  · cases h


/-! ### What an operation does to the transport (R65, R82) -/

/-- `enable` before its write: the request is recorded (R225). -/
def Work.requested (w : Work) (e : ActiveEntry) : Work :=
  { w with session := { w.session with active := activeWrite e w.session.active } }

section
variable {ceiling : Nat} {w : Work} (hc : w.session.cfg.ceiling = ceiling)
include hc

/-- A run after another that has kept the configuration. -/
theorem Run.onBus_keeping {α β : Type} {p : α → Work} {q : β → Bus} {x : Run α} {f : α → Run β}
    (h : x.onBus ceiling w.bus (fun a => (p a).bus)) (hcfg : ∀ a, x = .done a → (p a).session.cfg = w.session.cfg)
    (k : ∀ a, (p a).session.cfg.ceiling = ceiling → (f a).onBus ceiling (p a).bus q) :
    (x.bind f).onBus ceiling w.bus q :=
  Run.onBus_bind h fun a ha => k a ((congrArg Config.ceiling (hcfg a ha)).trans hc)

theorem pollHandshake_onBus (o : DecodeOutcome) : (pollHandshake o w).onBus ceiling w.bus (·.2.bus) := by
  unfold pollHandshake
  split
  · exact replayOp_onBus { w with session := { w.session with fsm := .ready } } hc
  · exact Bus.grew_refl _ _

variable (h5 : 5 ≤ ceiling)
include h5

theorem openOp_onBus : (openOp w).onBus ceiling w.bus (·.2.bus) := by
  unfold openOp
  split
  · refine Run.onBus_bind (resetOp_onBus w hc h5) fun r _ => ?_
    split <;> exact Bus.grew_refl _ _
  · trivial

theorem enableOp_onBus (r : Byte) (ms : Nat) (c : Word32) :
    (enableOp r ms c w).onBus ceiling w.bus (·.2.bus) := by
  unfold enableOp
  split
  · split
    · trivial
    next hms =>
      rw [setFeatureOp_inRange r c (Nat.not_lt.1 hms), Run.bind_done]
      refine Run.onBus_keeping (w := w.requested ⟨r, ms, c⟩) (p := (·.2)) hc
        (sendOp_onBus _ _ (w.requested ⟨r, ms, c⟩) hc) (fun _ => sendOp_cfg) fun sent hsent => ?_
      refine Run.onBus_bind (accountOp_onBus _ sent.2 hsent h5) fun a _ => ?_
      split <;> exact Bus.grew_refl _ _
  · trivial

theorem pollReturn_onBus (failedNow : Bool) (c : PollClass) (o : PollOutcome) :
    (pollReturn failedNow c o w).onBus ceiling w.bus (·.2.bus) := by
  refine Run.onBus_bind (accountOp_onBus failedNow w hc h5) fun a _ => ?_
  split <;> exact Bus.grew_refl _ _

theorem pollPacket_onBus (channel : Byte) (payload : Bytes) :
    (pollPacket channel payload w).onBus ceiling w.bus (·.2.bus) :=
  Run.onBus_keeping (p := (·.2)) hc (decodeOp_onBus channel payload w) (fun _ => decodeOp_cfg) fun d hd =>
    Run.onBus_keeping (p := (·.2)) hd (pollHandshake_onBus hd d.1) (fun _ => pollHandshake_cfg) fun h hh =>
      pollReturn_onBus hh h5 h.1 _ _

theorem pollReceive_onBus : (pollReceive w).onBus ceiling w.bus (·.2.bus) := by
  subst hc
  refine Run.onBus_bind (deframeOp_onBus h5 w.bus) fun d _ => ?_
  obtain ⟨result, b⟩ := d
  cases result with
  | noData | transportError | truncated => exact pollReturn_onBus (w := ⟨w.session, b⟩) rfl h5 _ _ _
  | packet channel sequence payload overflow => exact pollPacket_onBus (w := ⟨w.session, b⟩) rfl h5 _ _

theorem pollOp_onBus : (pollOp w).onBus ceiling w.bus (·.2.bus) := by
  unfold pollOp
  split
  · trivial
  · refine Run.onBus_bind (resetOp_onBus w hc h5) fun r _ => ?_
    split <;> exact Bus.grew_refl _ _
  · exact pollReceive_onBus hc h5
  · exact pollReceive_onBus hc h5

end

/-- A run that only turns what another returned into a result does the same to the transport. -/
theorem Run.onBus_result {α : Type} {ceiling : Nat} {b : Bus} {p : α → Bus} {x : Run α} {f : α → Result × Work}
    (h : x.onBus ceiling b p) (hf : ∀ a, (f a).2.bus = p a) :
    (x.bind fun a => .done (f a)).onBus ceiling b (·.2.bus) :=
  Run.onBus_bind h fun a _ => Run.onBus_done (Bus.grew_refl _ _) (hf a)

/-- A run that takes no answer and raises no condition. -/
theorem Run.onBus_still {α : Type} {ceiling : Nat} {b : Bus} {x : Run α} (h : ∀ f, x ≠ .waits f) :
    x.onBus ceiling b (fun _ => b) := by
  cases x with
  | done a => exact Bus.grew_refl _ _
  | waits f => exact absurd rfl (h f)
  | refused r => trivial

theorem frameOp_not_waits (channel sequence : Byte) (payload : Bytes) (f : InFlight) :
    frameOp channel sequence payload ≠ .waits f := by unfold frameOp; split <;> nofun

theorem nextSequenceOp_not_waits (channel : Byte) (s : Session) (f : InFlight) :
    nextSequenceOp channel s ≠ .waits f := by unfold nextSequenceOp; split <;> nofun

theorem setFeatureOp_not_waits (r : Byte) (ms : Nat) (c : Word32) (f : InFlight) :
    setFeatureOp r ms c ≠ .waits f := by unfold setFeatureOp; split <;> nofun

theorem dequantizeOp_not_waits (raw : Word16) (q : Int) (f : InFlight) : dequantizeOp raw q ≠ .waits f := by
  unfold dequantizeOp; split <;> nofun

theorem actionOperation_onBus (ceiling : Nat) (action : Bytes → Session → DecodeOutcome × Session) (p : Bytes)
    (w : Work) : (actionOperation action p w).onBus ceiling w.bus (·.2.bus) := recordOutcome_grew _ _ _

/-- Whatever an operation does to the transport is legal, and it waits only where no answer is listed any more. -/
theorem operationOf_onBus (i : Instr) {w : Work} (h5 : 5 ≤ w.session.cfg.ceiling) :
    (operationOf i w).onBus w.session.cfg.ceiling w.bus (·.2.bus) := by
  cases i with
  | inPidr | inCmdr | inCtrlOther | inAccel | inGyro | inMag | inLinAccel | inRotVec | inGameRotVec | inSteps
  | inStability | inActivity | inSubOther | inReportsOther | inCh0 | inChOther =>
    exact actionOperation_onBus _ _ _ w
  | outSetf | outSrst | outPidq | send => exact Run.onBus_result (sendOp_onBus _ _ w rfl) fun _ => rfl
  | header h => exact Run.onBus_result (afterProbe_onBus h5 h w.bus) fun _ => rfl
  | openSession => exact Run.onBus_result (openOp_onBus rfl h5) fun _ => rfl
  | enable r ms c => exact Run.onBus_result (enableOp_onBus rfl h5 r ms c) fun _ => rfl
  | poll => exact Run.onBus_result (pollOp_onBus rfl h5) fun _ => rfl
  | resetSequence => exact Run.onBus_result (resetOp_onBus w rfl h5) fun _ => rfl
  | drain => exact Run.onBus_result (drainOp_onBus h5 w.bus) fun _ => rfl
  | replay => exact Run.onBus_result (replayOp_onBus w rfl) fun _ => rfl
  | account failedNow => exact Run.onBus_result (accountOp_onBus failedNow w rfl h5) fun _ => rfl
  | frame channel sequence payload =>
    exact Run.onBus_result (Run.onBus_still (frameOp_not_waits channel sequence payload)) fun _ => rfl
  | deframe => exact Run.onBus_result (deframeOp_onBus h5 w.bus) fun _ => rfl
  | nextSequence channel =>
    exact Run.onBus_result (Run.onBus_still (nextSequenceOp_not_waits channel w.session)) fun _ => rfl
  | decode channel payload => exact Run.onBus_result (decodeOp_onBus channel payload w) fun _ => rfl
  | buildSetFeature r ms c => exact Run.onBus_result (Run.onBus_still (setFeatureOp_not_waits r ms c)) fun _ => rfl
  | buildSoftReset | buildProductIdRequest => exact Bus.grew_refl _ _
  | dequantize raw q => exact Run.onBus_result (Run.onBus_still (dequantizeOp_not_waits raw q)) fun _ => rfl

/-- An instruction that returned has made the transport grow. -/
theorem exec_grew {i : Instr} {s t : State} (h : exec i s = .next t) (hp : t.inProgress = none) :
    s.bus.grew s.session.cfg.ceiling t.bus := by
  obtain ⟨r, hr, rfl⟩ := exec_returned h hp
  obtain ⟨hceil, -⟩ := configWf_ceiling (exec_next.1 h).1
  have hbus := operationOf_onBus i (w := ⟨s.session, s.bus⟩) (Nat.le_trans (by decide) hceil)
  rw [hr] at hbus
  exact hbus

/-- An instruction that awaits an answer has met every listed one, and the state is as it was but for the transport. -/
theorem exec_waiting {i : Instr} {s t : State} {f : InFlight} (h : exec i s = .next t) (hp : t.inProgress = some f) :
    awaits s.session.cfg.ceiling s.bus f ∧ t = { s with bus := receiveAnswer s.bus, inProgress := some f } := by
  obtain ⟨hw, ⟨r, -, rfl⟩ | ⟨g, hg, rfl⟩⟩ := exec_next.1 h
  · cases hp
  · obtain ⟨hceil, -⟩ := configWf_ceiling hw
    have hbus := operationOf_onBus i (w := ⟨s.session, s.bus⟩) (Nat.le_trans (by decide) hceil)
    rw [hg] at hbus
    obtain ⟨es, hes, hawaits⟩ := hbus
    cases hp
    rw [show g.events = s.bus.history ++ es from hes, List.drop_left]
    exact ⟨hawaits, rfl⟩

/-- Settles O49: what a returned instruction did is `exec_grew`, where a waiting one stands is `exec_waiting`, and a
client read does nothing. -/
theorem stepExtendsHistory : Obligations.StepExtendsHistory := by
  intro s t h hne
  obtain ⟨a, rest, hp⟩ := List.exists_cons_of_ne_nil hne
  rw [hp, List.tail_cons]
  obtain ⟨i, u, hu, rfl⟩ | ⟨p, v, -, rfl⟩ := step_next hp h
  · rw [State.retired_inProgress]
    refine ⟨fun hn => ?_, fun f hf => ?_⟩
    · rw [State.retired_of_returned hn]
      exact ⟨exec_grew (t := u) hu hn, rfl⟩
    · obtain ⟨hawaits, rfl⟩ := exec_waiting hu hf
      rw [State.retired_of_waiting (by simp)]
      refine ⟨hawaits, rfl, rfl, hp, rfl, ?_⟩
      obtain ⟨b, hsilent, e⟩ | e := receiveAnswer_cases s.bus
      · exact .inl ⟨b, by simp only [e], by simp only [e]⟩
      · exact .inr ⟨by simp only [e], by simp only [e]⟩
  · exact ⟨fun _ => ⟨Bus.grew_refl _ _, rfl⟩, nofun⟩

/-- An operation does not look at the record of what is in progress: it starts anew (log 19). -/
theorem perform_inProgress (s : State) (f : Option InFlight) (operation : Work → Run (Result × Work)) :
    perform { s with inProgress := f } operation = perform s operation := by
  unfold perform
  split
  · split <;> simp_all
  · rfl

theorem runAction_inProgress (a : Action) (s : State) (f : Option InFlight) :
    runAction a { s with inProgress := f } = runAction a s := by
  have hexec (i : Instr) : exec i { s with inProgress := f } = exec i s := by
    simp only [exec_eq_perform, perform_inProgress]
  cases a with
  | call i => simp only [runAction, runCall, hexec]
  | wire g bytes => simp only [runAction, runWire, hexec]
  | read p => exact perform_inProgress s f (readOperation p)

/-- Settles O53: an awaiting instruction leaves a silent transport as it is, and the next step, which does not look at
what is in progress, is this one again. -/
theorem awaitedResultMayNeverArrive : Obligations.AwaitedResultMayNeverArrive := by
  intro s t hsilent h hwaits
  cases hp : s.pending with
  | nil =>
    rw [show step s = .next s by simp [step, runNext, hp]] at h
    cases h
    exact ⟨by simp [step, runNext, hp], rfl, rfl, hp, rfl⟩
  | cons a rest =>
    obtain ⟨i, u, hu, rfl⟩ | ⟨p, v, -, rfl⟩ := step_next hp h
    · rw [State.retired_inProgress] at hwaits
      obtain ⟨f, hf⟩ := Option.ne_none_iff_exists'.1 hwaits
      obtain ⟨-, rfl⟩ := exec_waiting hu hf
      rw [State.retired_of_waiting hwaits, receiveAnswer_of_silent hsilent] at h ⊢
      refine ⟨?_, rfl, rfl, hp, rfl⟩
      rw [runNext_cons hp] at h
      rw [runNext_cons (s := { s with bus := s.bus, inProgress := some f }) hp, runAction_inProgress, h]
    · exact absurd rfl hwaits

end Sys2Proof.Machine
end

section
/-! SUPPORT. The family of the whole machine, second part: the invariant of the session, the moves of `S.fsm`, which
instruction may write what, and on which grounds an operation is refused. -/

namespace Sys2Proof.Machine

/-! ### What an instruction does to the session -/

/-- After the accounting: the count set to a number below the threshold, or the session restarted (R229, R230). -/
inductive Session.Accounted (s : Session) : Session → Prop where
  | counted (n : Nat) : n < s.cfg.failThreshold → Accounted s { s with failCount := n }
  | restarted (t : Session) : s.restarted t → Accounted s t

theorem accountOp_accounted {failedNow : Bool} {a : AccountResult} {w v : Work}
    (hw : configWf w.session.cfg = true) (h : accountOp failedNow w = .done (a, v)) :
    w.session.Accounted v.session := by
  obtain ⟨-, n, hn, e⟩ | ⟨-, e⟩ := accountOp_session hw h
  · rw [show v.session = { w.session with failCount := n } from e]
    exact .counted n hn
  · exact .restarted _ e

/-- All that an instruction which has returned can have done to the session (R38). -/
inductive Session.Effect (s : Session) : Instr → Session → Prop where
  | kept (i : Instr) : Effect s i s
  | decoded {i : Instr} (row : InRow) (channel : Byte) (payload : Bytes) : decodes i = true →
    Effect s i (rowAction row channel payload s).2
  | sequenced {i : Instr} (seq : Vector Byte nchan) : sequences i = true → Effect s i { s with seq := seq }
  | restarted {i : Instr} (t : Session) : controls i = true → s.restarted t → Effect s i t
  | accounted (failedNow : Bool) (t : Session) : s.Accounted t → Effect s (.account failedNow) t
  | enabled (r : Byte) (ms : Nat) (c : Word32) (seq : Vector Byte nchan) (t : Session) : ms ≤ 4294967 →
    Accounted { s with active := activeWrite ⟨r, ms, c⟩ s.active, seq := seq } t → Effect s (.enable r ms c) t
  | polled (c : PollClass) (o : PollOutcome) (u t : Session) : s.Received c o u → u.Accounted t → Effect s .poll t

section
variable {w : Work} {r : Result × Work}

theorem effect_of_sequenced {α : Type} {i : Instr} {x : Run α} {p : α → Work} {f : α → Result × Work}
    (hi : sequences i = true) (h : (x.bind fun a => .done (f a)) = .done r) (hf : ∀ a, (f a).2.session = (p a).session)
    (hx : ∀ a, x = .done a → (p a).session = { w.session with seq := (p a).session.seq }) :
    w.session.Effect i r.2.session := by
  obtain ⟨a, ha, h⟩ := Run.bind_eq_done.1 h
  cases h
  rw [hf a, hx a ha]
  exact .sequenced _ hi

/-- A run whose result leaves the session as it was. -/
theorem effect_of_kept {α : Type} {i : Instr} {x : Run α} {f : α → Result × Work}
    (h : (x.bind fun a => .done (f a)) = .done r) (hf : ∀ a, (f a).2.session = w.session) :
    w.session.Effect i r.2.session := by
  obtain ⟨a, -, h⟩ := Run.bind_eq_done.1 h
  cases h
  rw [hf a]
  exact .kept i

theorem effect_of_enable {id : Byte} {ms : Nat} {c : Word32} (hw : configWf w.session.cfg = true)
    (h : operationOf (.enable id ms c) w = .done r) : w.session.Effect (.enable id ms c) r.2.session := by
  obtain ⟨a, ha, h⟩ := Run.bind_eq_done.1 h
  cases h
  obtain ⟨-, hms, failedNow, u, hu, hacc⟩ := enableOp_done ha
  have hcfg : configWf u.session.cfg = true := by rw [hu]; exact hw
  refine .enabled id ms c u.session.seq _ hms ?_
  rw [← hu]
  obtain ⟨-, hacc⟩ | ⟨-, hacc⟩ := hacc <;> exact accountOp_accounted hcfg hacc

theorem effect_of_poll (hw : configWf w.session.cfg = true) (h : operationOf .poll w = .done r) :
    w.session.Effect .poll r.2.session := by
  obtain ⟨a, ha, h⟩ := Run.bind_eq_done.1 h
  cases h
  obtain ⟨-, e⟩ | ⟨-, failedNow, c, o, u, hret, hu⟩ := pollOp_done ha
  · exact .restarted _ rfl e
  · refine .polled c o u.session _ hu ?_
    obtain ⟨-, hacc⟩ | ⟨-, hacc⟩ := pollReturn_done hret <;> exact accountOp_accounted (hu.cfg ▸ hw) hacc

end

theorem replayOp_session {w : Work} {r : Bool × Work} (h : replayOp w = .done r) :
    r.2.session = { w.session with seq := r.2.session.seq } := replayLoop_session h

/-- Every instruction that returns has had one of these effects. -/
theorem operationOf_effect {i : Instr} {w : Work} {r : Result × Work} (hw : configWf w.session.cfg = true)
    (h : operationOf i w = .done r) : w.session.Effect i r.2.session := by
  cases i with
  | inPidr p => cases h; exact .decoded .pidr 2 p rfl
  | inCmdr p => cases h; exact .decoded .cmdr 2 _ rfl
  | inAccel p => cases h; exact .decoded .accel 3 _ rfl
  | inGyro p => cases h; exact .decoded .gyro 3 _ rfl
  | inMag p => cases h; exact .decoded .mag 3 _ rfl
  | inLinAccel p => cases h; exact .decoded .linAccel 3 _ rfl
  | inRotVec p => cases h; exact .decoded .rotVec 3 _ rfl
  | inGameRotVec p => cases h; exact .decoded .gameRotVec 3 _ rfl
  | inSteps p => cases h; exact .decoded .steps 3 _ rfl
  | inStability p => cases h; exact .decoded .stability 3 _ rfl
  | inActivity p => cases h; exact .decoded .activity 3 _ rfl
  | inSubOther p => cases h; exact .decoded .subOther 3 _ rfl
  | inCtrlOther | inReportsOther | inCh0 | inChOther | buildSoftReset | buildProductIdRequest =>
    cases h
    exact .kept _
  | decode channel payload =>
    obtain ⟨a, ha, h⟩ := Run.bind_eq_done.1 h
    cases h
    obtain ⟨row, rfl⟩ := decodeOp_done ha
    exact .decoded row channel payload rfl
  | outSetf | outSrst | outPidq | send =>
    exact effect_of_sequenced (p := (·.2)) rfl h (fun _ => rfl) fun _ => sendOp_session
  | replay => exact effect_of_sequenced (p := (·.2)) rfl h (fun _ => rfl) fun _ => replayOp_session
  | nextSequence channel =>
    refine effect_of_sequenced (p := fun a => ⟨a.2, w.bus⟩) rfl h (fun _ => rfl) fun a ha => ?_
    obtain ⟨_, rfl⟩ := nextSequenceOp_done.1 ha
    rfl
  | header | drain | frame | deframe | buildSetFeature | dequantize => exact effect_of_kept h fun _ => rfl
  | openSession =>
    obtain ⟨a, ha, h⟩ := Run.bind_eq_done.1 h
    cases h
    exact .restarted _ rfl (openOp_done ha).2
  | resetSequence =>
    obtain ⟨a, ha, h⟩ := Run.bind_eq_done.1 h
    cases h
    exact .restarted _ rfl (resetOp_restarted ha)
  | account failedNow =>
    obtain ⟨a, ha, h⟩ := Run.bind_eq_done.1 h
    cases h
    exact .accounted failedNow _ (accountOp_accounted hw ha)
  | enable id ms c => exact effect_of_enable hw h
  | poll => exact effect_of_poll hw h

/-- An instruction that has answered a next state has had one of these effects, none while it waits. -/
theorem exec_effect {i : Instr} {s t : State} (h : exec i s = .next t) : s.session.Effect i t.session := by
  obtain ⟨hw, ⟨r, hr, rfl⟩ | ⟨f, -, rfl⟩⟩ := exec_next.1 h
  · exact operationOf_effect (w := ⟨s.session, s.bus⟩) hw hr
  · exact .kept i

/-! ### The invariant of the session -/

theorem le16_isSome {p : Bytes} {i : Nat} (h : i + 2 ≤ p.length) : (le16 p i).isSome := by
  obtain ⟨a, b, hab⟩ : ∃ a b, (p.drop i).take 2 = [a, b] :=
    List.length_eq_two.1 (by rw [List.length_take, List.length_drop]; omega)
  simp [le16, memRead, h, hab]

/-- The bytes of the fourth word lie before those of the fifth (R106, R173). -/
theorem le16_real_of_radAcc {p : Bytes} (h : (le16 p 17).isSome) : (le16 p 15).isSome := by
  refine le16_isSome (Nat.le_of_not_lt fun hlt => ?_)
  simp [le16_eq_none (show p.length < 17 + 2 by omega)] at h

theorem quaternionRecord_words {source : Byte} {p : Bytes} {q : Quaternion} (h : quaternionRecord source p = some q) :
    q.real = le16 p 15 ∧ q.radAcc = le16 p 17 := by
  unfold quaternionRecord at h
  split at h
  · cases h
    exact ⟨quaternionReal_eq p, radianAccuracy_eq p⟩
  · cases h

/-- A slot-writing action keeps what both of its ends have. -/
theorem writeSlot_keeps {α : Type} {kind : Kind} {minimum : Nat} {p : Bytes} {record : Option α} {put : α → Session}
    {s : Session} {P : Session → Prop} (hs : P s) (hput : ∀ r, record = some r → P (put r)) :
    P (writeSlot kind minimum p record put s).2 := by
  obtain e | ⟨r, hr, -, e⟩ := writeSlot_cases kind minimum p record put s <;> rw [e]
  · exact hs
  · exact hput r hr

theorem actCmdr_session (p : Bytes) (s : Session) :
    (actCmdr p s).2 = s ∨ ∃ r, (actCmdr p s).2 = { s with calib := some r } := by
  unfold actCmdr
  split
  · exact .inl rfl
  split
  · split
    · exact .inl rfl
    · exact .inr ⟨_, rfl⟩
  · exact .inl rfl

section
variable {s : Session} (h : SessionInv s)
include h

theorem SessionInv.quatWritten {source : Byte} {p : Bytes} {q : Quaternion} (hs : source = 0x05 ∨ source = 0x08)
    (hq : quaternionRecord source p = some q) : SessionInv { s with quat := some q } where
  configuration := h.configuration
  failCount := h.failCount
  handshake := h.handshake
  record := h.record
  intervals := h.intervals
  quaternion := by
    rintro _ ⟨⟩
    obtain ⟨hreal, hacc⟩ := quaternionRecord_words hq
    rw [quaternionRecord_source hq, hreal, hacc]
    exact ⟨hs, le16_real_of_radAcc⟩

/-- Every decode action keeps the invariant. -/
theorem SessionInv.decoded (r : InRow) (channel : Byte) (p : Bytes) : SessionInv (rowAction r channel p s).2 := by
  cases r with
  | pidr => exact { h with handshake := fun _ => rfl }
  | cmdr =>
    show SessionInv (actCmdr p s).2
    obtain e | ⟨r, e⟩ := actCmdr_session p s <;> rw [e]
    · exact h
    · exact { h with }
  | ctrlOther | reportsOther | ch0 | chOther => exact h
  | accel | gyro | mag | linAccel | steps | stability | activity => exact writeSlot_keeps h fun _ _ => { h with }
  | rotVec => exact writeSlot_keeps h fun _ hr => h.quatWritten (.inl rfl) hr
  | gameRotVec => exact writeSlot_keeps h fun _ hr => h.quatWritten (.inr rfl) hr
  | subOther =>
    show SessionInv (actSubOther p s).2
    unfold actSubOther
    split <;> exact h

theorem SessionInv.requested {e : ActiveEntry} (he : e.intervalMillis ≤ 4294967) (seq : Vector Byte nchan) :
    SessionInv { s with active := activeWrite e s.active, seq := seq } :=
  { h with
    record := activeWrite_canonical e h.record
    intervals := fun f hf => by
      obtain rfl | hf := mem_activeWrite hf
      · exact he
      · exact h.intervals f hf }

/-- The reset sequence leaves the session out of `Ready` with a count of 0. -/
theorem SessionInv.restarted {t : Session} (ht : s.restarted t) : SessionInv t := by
  obtain ⟨hf, e⟩ := ht
  rw [e]
  refine { h with failCount := (configWf_capacity h.configuration).2, handshake := fun hr => ?_ }
  have hr : t.fsm = .ready := hr
  rw [hr] at hf
  simp at hf

theorem SessionInv.received {t : Session} {c : PollClass} {o : PollOutcome} (ht : s.Received c o t) :
    SessionInv t := by
  cases ht with
  | kept => exact h
  | decoded row channel payload => exact h.decoded row channel payload
  | handshake seq => exact { h with handshake := fun _ => rfl }

end

theorem SessionInv.accounted {s t : Session} (h : SessionInv s) (ht : s.Accounted t) : SessionInv t := by
  cases ht with
  | counted n hn => exact { h with failCount := hn }
  | restarted _ e => exact h.restarted e

/-- Every effect of an instruction keeps the invariant. -/
theorem SessionInv.effect {s t : Session} {i : Instr} (h : SessionInv s) (ht : s.Effect i t) : SessionInv t := by
  cases ht with
  | kept => exact h
  | decoded row channel payload _ => exact h.decoded row channel payload
  | sequenced seq _ => exact { h with }
  | restarted _ _ e => exact h.restarted e
  | accounted _ _ e => exact h.accounted e
  | enabled r ms c seq _ hms e => exact (h.requested (e := ⟨r, ms, c⟩) hms seq).accounted e
  | polled c o u _ hu e => exact (h.received hu).accounted e

/-- Settles O47: a step's session is that of the instruction it executed, or of before. -/
theorem stepKeepsInvariant : Obligations.StepKeepsInvariant := by
  intro s t h hstep
  cases hp : s.pending with
  | nil =>
    rw [show step s = .next s by simp [step, runNext, hp]] at hstep
    cases hstep
    exact h
  | cons a rest =>
    obtain ⟨i, u, hu, rfl⟩ | ⟨p, v, -, rfl⟩ := step_next hp hstep
    · rw [State.retired_session]
      exact h.effect (exec_effect hu)
    · exact h

/-! ### The moves of `S.fsm` (R232) -/

theorem accountOp_normal_fsm {failedNow : Bool} {w v : Work} (h : accountOp failedNow w = .done (.normal, v)) :
    v.session.fsm = w.session.fsm := by
  obtain ⟨-, e⟩ | ⟨-, -, e⟩ | ⟨-, -, e, -⟩ := accountOp_done h <;> cases e <;> rfl

theorem accountOp_tripped_restarted {failedNow : Bool} {w v : Work}
    (h : accountOp failedNow w = .done (.tripped, v)) : w.session.restarted v.session := by
  obtain ⟨-, e⟩ | ⟨-, -, e⟩ | ⟨-, -, -, q, hq⟩ := accountOp_done h
  · cases e
  · cases e
  · exact resetOp_restarted hq

theorem fsmMove_of_restarted {a b : Fsm} (h : b = .awaitingHandshake ∨ b = .resetting) : fsmMove a b = true := by
  obtain rfl | rfl := h <;> cases a <;> rfl

theorem fsmMove_self {a : Fsm} (h : a = .awaitingHandshake ∨ a = .ready) : fsmMove a a = true := by
  obtain rfl | rfl := h <;> rfl

theorem Session.restarted.fsm_ne {s t : Session} (h : s.restarted t) : t.fsm ≠ .ready := by
  obtain ⟨hf | hf, -⟩ := h <;> rw [hf] <;> nofun

/-- Before its accounting a receiving `poll` has left the state as it is, or has made the one move to `Ready` that a
decoded handshake makes (R226, R227). -/
theorem Session.Received.fsm {s t : Session} {c : PollClass} {o : PollOutcome} (h : s.Received c o t) :
    t.fsm = s.fsm ∨ (s.fsm = .awaitingHandshake ∧ t.fsm = .ready ∧ c = .newData ∧ o = .decoded .handshakeAck) := by
  cases h with
  | kept => exact .inl rfl
  | decoded row channel payload => exact .inl (rowAction_fsm row channel payload s)
  | handshake seq hf => exact .inr ⟨hf, rfl, rfl, rfl⟩

section
variable {w : Work}

theorem openOp_moves {r : HostResult × Work} (h : openOp w = .done r) :
    fsmMove w.session.fsm r.2.session.fsm = true ∧ w.session.fsm ≠ .awaitingHandshake ∧ w.session.fsm ≠ .ready := by
  obtain ⟨hf, he⟩ := openOp_done h
  refine ⟨fsmMove_of_restarted he.1, ?_⟩
  obtain hf | hf := hf <;> rw [hf] <;> exact ⟨nofun, nofun⟩

/-- An `enable` leaves `Ready` only by a reset sequence, and then it has failed. -/
theorem enableOp_moves {id : Byte} {ms : Nat} {c : Word32} {r : HostResult × Work}
    (h : enableOp id ms c w = .done r) :
    w.session.fsm = .ready ∧ fsmMove .ready r.2.session.fsm = true ∧
      (r.2.session.fsm ≠ .ready → r.1 = .failed) := by
  obtain ⟨hf, -, failedNow, u, hu, ⟨-, ha⟩ | ⟨hr, ha⟩⟩ := enableOp_done h
  · have he : r.2.session.fsm = .ready := by rw [accountOp_normal_fsm ha, hu]; exact hf
    exact ⟨hf, by rw [he]; rfl, fun hne => absurd he hne⟩
  · exact ⟨hf, fsmMove_of_restarted (accountOp_tripped_restarted ha).1, fun _ => hr⟩

/-- A `poll` moves by a reset sequence, by a decoded handshake, or not at all. -/
theorem pollOp_moves {r : (PollClass × PollOutcome) × Work} (h : pollOp w = .done r) :
    fsmMove w.session.fsm r.2.session.fsm = true ∧ w.session.fsm ≠ .uninitialized ∧
    (w.session.fsm = .awaitingHandshake → r.2.session.fsm = .ready →
      r.1 = (.newData, .decoded .handshakeAck)) ∧
    (w.session.fsm = .ready → r.2.session.fsm ≠ .ready → ∃ o, r.1 = (.failed, o)) := by
  obtain ⟨hf, he⟩ | ⟨hf, failedNow, c, o, u, hret, hu⟩ := pollOp_done h
  · rw [hf]
    exact ⟨fsmMove_of_restarted he.1, nofun, nofun, nofun⟩
  have hne : w.session.fsm ≠ .uninitialized := by obtain hf | hf := hf <;> rw [hf] <;> nofun
  obtain ⟨hr, ha⟩ | ⟨hr, ha⟩ := pollReturn_done hret
  · rw [accountOp_normal_fsm ha]
    obtain hsame | ⟨hawaits, hready, rfl, rfl⟩ := hu.fsm
    · rw [hsame]
      exact ⟨fsmMove_self hf, hne, fun hawaits hready => (by simp [hawaits] at hready),
        fun hready hleft => absurd hready hleft⟩
    · rw [hawaits, hready]
      exact ⟨rfl, nofun, fun _ _ => hr, nofun⟩
  · have he := accountOp_tripped_restarted ha
    exact ⟨fsmMove_of_restarted he.1, hne, fun _ hready => absurd hready he.fsm_ne, fun _ _ => ⟨o, hr⟩⟩

end

/-- Settles O46: the moves of the three host operations, one by one. -/
theorem fsmTransitions : Obligations.FsmTransitions := by
  intro i s t hi h hp
  obtain ⟨r, hr, rfl⟩ := exec_returned h hp
  cases i with
  | openSession =>
    obtain ⟨a, ha, hr⟩ := Run.bind_eq_done.1 hr
    cases hr
    obtain ⟨hmove, hawaits, hready⟩ := openOp_moves ha
    exact ⟨hmove, fun _ => rfl, fun h _ => absurd h hawaits, fun h _ => absurd h hready⟩
  | enable id ms c =>
    obtain ⟨a, ha, hr⟩ := Run.bind_eq_done.1 hr
    cases hr
    obtain ⟨hf, hmove, hfailed⟩ := enableOp_moves ha
    have hf : s.session.fsm = .ready := hf
    rw [hf]
    exact ⟨hmove, nofun, nofun, fun _ hne => .inl (congrArg Result.host (hfailed hne))⟩
  | poll =>
    obtain ⟨a, ha, hr⟩ := Run.bind_eq_done.1 hr
    cases hr
    obtain ⟨hmove, hne, hack, hfailed⟩ := pollOp_moves ha
    refine ⟨hmove, fun h => absurd h hne, fun hawaits hready => ⟨rfl, ?_⟩, fun hready hleft => .inr ?_⟩
    · simp [hack hawaits hready]
    · obtain ⟨o, ho⟩ := hfailed hready hleft
      exact ⟨o, by simp [ho]⟩
  | _ => cases hi

/-! ### Who may write what (R38) -/

theorem sequences_of_controls {i : Instr} (h : sequences i = false) : controls i = false := by
  cases i with
  | openSession | enable | poll | resetSequence | account => cases h
  | _ => rfl

theorem Session.restarted.sameSlots {s t : Session} (h : s.restarted t) : Machine.sameSlots s t := by
  rw [h.2]
  exact ⟨rfl, rfl, rfl, rfl, rfl, rfl, rfl, rfl, rfl⟩

theorem Session.Accounted.sameSlots {s t : Session} (h : s.Accounted t) : Machine.sameSlots s t := by
  cases h with
  | counted => exact ⟨rfl, rfl, rfl, rfl, rfl, rfl, rfl, rfl, rfl⟩
  | restarted _ e => exact e.sameSlots

theorem Session.Accounted.cfg {s t : Session} (h : s.Accounted t) : t.cfg = s.cfg := by
  cases h with
  | counted => rfl
  | restarted _ e => exact e.cfg

theorem Session.Effect.cfg {s t : Session} {i : Instr} (h : s.Effect i t) : t.cfg = s.cfg := by
  cases h with
  | kept => rfl
  | decoded row channel payload _ => exact rowAction_cfg row channel payload s
  | sequenced => rfl
  | restarted _ _ e => exact e.cfg
  | accounted _ _ e => exact e.cfg
  | enabled r ms c seq _ hms e => exact e.cfg
  | polled c o u _ hu e => exact e.cfg.trans hu.cfg

/-- Only a decode writes a slot. -/
theorem Session.Effect.slots {s t : Session} {i : Instr} (h : s.Effect i t) (hd : decodes i = false) :
    sameSlots s t := by
  cases h with
  | kept | sequenced => exact ⟨rfl, rfl, rfl, rfl, rfl, rfl, rfl, rfl, rfl⟩
  | restarted _ _ e => exact e.sameSlots
  | accounted _ _ e => exact e.sameSlots
  | enabled r ms c seq _ _ e => exact e.sameSlots
  | decoded _ _ _ hi => cases hi.symm.trans hd
  | polled => cases hd

/-- Only session control writes its registers, and only it and a decode the handshake flag. -/
theorem Session.Effect.registers {s t : Session} {i : Instr} (h : s.Effect i t) (hc : controls i = false) :
    (decodes i = false → t.handshakeComplete = s.handshakeComplete) ∧
    t.fsm = s.fsm ∧ t.failCount = s.failCount ∧ t.active = s.active := by
  cases h with
  | kept | sequenced => exact ⟨fun _ => rfl, rfl, rfl, rfl⟩
  | decoded row channel payload hi =>
    have e := rowAction_control row channel payload s
    exact ⟨fun hd => (by cases hi.symm.trans hd), (congrArg Session.fsm e).trans rfl,
      (congrArg Session.failCount e).trans rfl, (congrArg Session.active e).trans rfl⟩
  | restarted _ hi _ => cases hi.symm.trans hc
  | accounted | enabled | polled => cases hc

/-- Only where the sequencer takes part is the table written. -/
theorem Session.Effect.seq {s t : Session} {i : Instr} (h : s.Effect i t) (hs : sequences i = false) :
    t.seq = s.seq := by
  cases h with
  | kept => rfl
  | decoded row channel payload _ => exact DecodeOutcome.wrote_seq (rowAction_wrote row channel payload s)
  | sequenced _ hi => cases hi.symm.trans hs
  | restarted _ hi _ => cases hi.symm.trans (sequences_of_controls hs)
  | accounted | enabled | polled => cases hs

/-- Settles O50: each part of the session is read off the instruction's effect. -/
theorem whoWritesWhat : Obligations.WhoWritesWhat := by
  intro i s t h
  have e := exec_effect h
  refine ⟨e.cfg, exec_pending h, e.slots, fun hd hc => (e.registers hc).1 hd, e.seq, fun hc => (e.registers hc).2⟩

end Sys2Proof.Machine
end

section
/-! SUPPORT. The family of the whole machine, third part: on which grounds an operation is refused (R7, R266). -/

namespace Sys2Proof.Machine

/-! ### The grounds of a refusal -/

/-- A run is refused, if at all, on one of these grounds. -/
def Run.refusedOnly {α : Type} (P : Refusal → Prop) (x : Run α) : Prop := ∀ r, x = .refused r → P r

section
variable {α β : Type} {P : Refusal → Prop}

theorem Run.refusedOnly_done (a : α) : (Run.done a).refusedOnly P := nofun

theorem Run.refusedOnly_refused {r : Refusal} (h : P r) : (Run.refused r : Run α).refusedOnly P := by
  rintro _ ⟨⟩; exact h

theorem Run.refusedOnly_bind {x : Run α} {f : α → Run β} (h : x.refusedOnly P)
    (k : ∀ a, x = .done a → (f a).refusedOnly P) : (x.bind f).refusedOnly P := by
  intro r hr
  obtain hx | ⟨a, ha, hf⟩ := Run.bind_eq_refused.1 hr
  · exact h r hx
  · exact k a ha r hf

theorem Run.refusedOnly_ite {c : Prop} [Decidable c] {x y : Run α} (h : c → x.refusedOnly P)
    (k : ¬c → y.refusedOnly P) : (if c then x else y).refusedOnly P := by
  split
  next hc => exact h hc
  next hc => exact k hc

end

section
variable {P : Refusal → Prop}

/-! ### What only reads is never refused -/

theorem busRead_refusedOnly (n : Nat) (b : Bus) : (busRead n b).refusedOnly P := by unfold busRead; split <;> nofun

theorem busWrite_refusedOnly (bytes : Bytes) (b : Bus) : (busWrite bytes b).refusedOnly P := by
  unfold busWrite; split <;> nofun

theorem readChunks_refusedOnly (cfg : Config) (fuel remaining : Nat) (payload : Bytes) (b : Bus) :
    (readChunks cfg fuel remaining payload b).refusedOnly P := by
  induction fuel generalizing remaining payload b with
  | zero => exact Run.refusedOnly_done _
  | succ fuel ih =>
    refine Run.refusedOnly_ite (fun _ => Run.refusedOnly_done _) fun _ =>
      Run.refusedOnly_bind (busRead_refusedOnly _ b) fun c _ => ?_
    split
    · exact Run.refusedOnly_done _
    · exact ih _ _ _

theorem afterProbe_refusedOnly (cfg : Config) (h : Header) (b : Bus) : (afterProbe cfg h b).refusedOnly P := by
  refine Run.refusedOnly_ite (fun _ => Run.refusedOnly_done _) fun _ =>
    Run.refusedOnly_ite (fun _ => Run.refusedOnly_done _) fun _ => ?_
  refine Run.refusedOnly_bind (readChunks_refusedOnly cfg _ _ _ _) fun q _ => ?_
  split <;> exact Run.refusedOnly_done _

theorem deframeOp_refusedOnly (cfg : Config) (b : Bus) : (deframeOp cfg b).refusedOnly P := by
  refine Run.refusedOnly_bind (busRead_refusedOnly 4 b) fun p _ => ?_
  split
  · exact Run.refusedOnly_done _
  · exact afterProbe_refusedOnly cfg _ _

theorem drainLoop_refusedOnly (cfg : Config) (fuel empties : Nat) (b : Bus) :
    (drainLoop cfg fuel empties b).refusedOnly P := by
  induction fuel generalizing empties b with
  | zero => exact Run.refusedOnly_ite (fun _ => nofun) fun _ => Run.refusedOnly_done _
  | succ fuel ih =>
    refine Run.refusedOnly_ite (fun _ => Run.refusedOnly_bind (deframeOp_refusedOnly cfg b) fun d _ => ?_) fun _ =>
      Run.refusedOnly_done _
    split
    · exact ih _ _
    · exact ih _ _
    · exact Run.refusedOnly_done _
    · exact Run.refusedOnly_done _

/-! ### What sends built packets is refused only for an interval -/

/-- A built packet fits every well-formed ceiling, so that its send returns or waits (R7, R133). -/
theorem sendOp_built_refusedOnly {channel : Byte} {payload : Bytes} (h : BuiltPacket channel payload) {w : Work}
    (hw : configWf w.session.cfg = true) : (sendOp channel payload w).refusedOnly P := by
  obtain ⟨hceil, -⟩ := configWf_ceiling hw
  have hlen := h.length
  have hc : channel.toNat < nchan := by
    show channel.toNat < 6
    obtain hch | hch := h.channel <;> rw [hch] <;> decide
  cases ha : w.bus.answers with
  | nil => rw [sendOp_unlisted hc (by omega) (by omega) ha]; nofun
  | cons a rest => rw [sendOp_listed hc (by omega) (by omega) ha]; nofun

theorem resetOp_refusedOnly {w : Work} (hw : configWf w.session.cfg = true) : (resetOp w).refusedOnly P := by
  refine Run.refusedOnly_bind (sendOp_built_refusedOnly .softReset hw) fun r hr => ?_
  have hcfg : r.2.session.cfg = w.session.cfg := (sendOp_cfg hr).trans rfl
  refine Run.refusedOnly_ite (fun _ => ?_) fun _ => Run.refusedOnly_done _
  simp only [Session.softResetWritten_eq]
  refine Run.refusedOnly_bind (drainLoop_refusedOnly _ _ _ _) fun d _ => ?_
  obtain ⟨result, b⟩ := d
  cases result with
  | aborted => exact Run.refusedOnly_done _
  | completed =>
    refine Run.refusedOnly_bind (sendOp_built_refusedOnly (w := ⟨r.2.session.softResetWritten, b⟩) .productId
      (hcfg ▸ hw)) fun q _ => ?_
    exact Run.refusedOnly_ite (fun _ => Run.refusedOnly_done _) fun _ => Run.refusedOnly_done _

theorem accountOp_refusedOnly {w : Work} (failedNow : Bool) (hw : configWf w.session.cfg = true) :
    (accountOp failedNow w).refusedOnly P := by
  refine Run.refusedOnly_ite (fun _ => Run.refusedOnly_ite (fun _ => ?_) fun _ => Run.refusedOnly_done _) fun _ =>
    Run.refusedOnly_done _
  exact Run.refusedOnly_bind (resetOp_refusedOnly (w := ⟨{ w.session with failCount := _ }, w.bus⟩) hw) fun _ _ =>
    Run.refusedOnly_done _

/-- The ground is given, or the interval is in the domain of R201. -/
theorem setFeatureOp_refusedOnly {ms : Nat} (r : Byte) (c : Word32) (h : P .intervalTooLong ∨ ms ≤ 4294967) :
    (setFeatureOp r ms c).refusedOnly P :=
  Run.refusedOnly_ite (fun hlt => Run.refusedOnly_refused (h.resolve_right (Nat.not_le.2 hlt))) fun _ =>
    Run.refusedOnly_done _

theorem replayLoop_refusedOnly {l : List ActiveEntry} {w : Work} (bad : Bool) (hw : configWf w.session.cfg = true)
    (h : ∀ e ∈ l, P .intervalTooLong ∨ e.intervalMillis ≤ 4294967) : (replayLoop l bad w).refusedOnly P := by
  induction l generalizing bad w with
  | nil => exact Run.refusedOnly_done _
  | cons e rest ih =>
    refine Run.refusedOnly_bind (setFeatureOp_refusedOnly _ _ (h e (by simp))) fun p hp => ?_
    refine Run.refusedOnly_bind (sendOp_built_refusedOnly (setFeatureOp_built hp) hw) fun r hr => ?_
    exact ih _ (sendOp_cfg hr ▸ hw) fun f hf => h f (List.mem_cons_of_mem _ hf)

theorem replayOp_refusedOnly {w : Work} (hw : configWf w.session.cfg = true)
    (h : ∀ e ∈ w.session.active, P .intervalTooLong ∨ e.intervalMillis ≤ 4294967) : (replayOp w).refusedOnly P :=
  replayLoop_refusedOnly false hw fun e he => h e (replayEntries_mem he)

/-! ### The host operations -/

theorem openOp_refusedOnly {w : Work} (hw : configWf w.session.cfg = true)
    (h : P .notAdmitted ∨ openAdmitted w.session.fsm = true) : (openOp w).refusedOnly P := by
  refine Run.refusedOnly_ite (fun _ => Run.refusedOnly_bind (resetOp_refusedOnly hw) fun r _ => ?_) fun hne =>
    Run.refusedOnly_refused (h.resolve_right hne)
  split <;> exact Run.refusedOnly_done _

theorem enableOp_refusedOnly {w : Work} {ms : Nat} (r : Byte) (c : Word32) (hw : configWf w.session.cfg = true)
    (hf : P .notAdmitted ∨ w.session.fsm = .ready) (hms : P .intervalTooLong ∨ ms ≤ 4294967) :
    (enableOp r ms c w).refusedOnly P := by
  refine Run.refusedOnly_ite (fun _ => Run.refusedOnly_ite (fun hlt => ?_) fun _ => ?_) fun hne =>
    Run.refusedOnly_refused (hf.resolve_right hne)
  · exact Run.refusedOnly_refused (hms.resolve_right (Nat.not_le.2 hlt))
  refine Run.refusedOnly_bind (setFeatureOp_refusedOnly r c hms) fun p hp => ?_
  refine Run.refusedOnly_bind (sendOp_built_refusedOnly (w := w.requested ⟨r, ms, c⟩) (setFeatureOp_built hp) hw)
    fun sent hs => ?_
  have hcfg : sent.2.session.cfg = w.session.cfg := (sendOp_cfg hs).trans rfl
  refine Run.refusedOnly_bind (accountOp_refusedOnly _ (hcfg ▸ hw)) fun a _ => ?_
  split <;> exact Run.refusedOnly_done _

theorem pollReturn_refusedOnly {w : Work} (failedNow : Bool) (c : PollClass) (o : PollOutcome)
    (hw : configWf w.session.cfg = true) : (pollReturn failedNow c o w).refusedOnly P := by
  refine Run.refusedOnly_bind (accountOp_refusedOnly failedNow hw) fun a _ => ?_
  split <;> exact Run.refusedOnly_done _

theorem pollHandshake_refusedOnly {w : Work} (o : DecodeOutcome) (hw : configWf w.session.cfg = true)
    (h : ∀ e ∈ w.session.active, P .intervalTooLong ∨ e.intervalMillis ≤ 4294967) :
    (pollHandshake o w).refusedOnly P :=
  Run.refusedOnly_ite (fun _ => replayOp_refusedOnly (w := ⟨{ w.session with fsm := .ready }, w.bus⟩) hw h) fun _ =>
    Run.refusedOnly_done _

/-- In its domain a `decode` returns; a payload that is not empty has a row (R160, R161). -/
theorem decodeOp_returns (channel : Byte) {p : Bytes} {w : Work} (hp : 1 ≤ p.length)
    (hl : p.length ≤ w.session.cfg.capacity) :
    ∃ row, classify channel p = some row ∧ decodeOp channel p w = .done (decodeAction (rowAction row channel p) w) := by
  obtain ⟨a, rest, rfl⟩ := List.exists_cons_of_length_pos hp
  exact ⟨_, rfl, decodeOp_inDomain (classify_cons channel a rest) hl⟩

theorem pollPacket_refusedOnly {w : Work} (channel : Byte) {p : Bytes} (hw : configWf w.session.cfg = true)
    (hp : 1 ≤ p.length) (hl : p.length ≤ w.session.cfg.capacity)
    (h : ∀ e ∈ w.session.active, P .intervalTooLong ∨ e.intervalMillis ≤ 4294967) :
    (pollPacket channel p w).refusedOnly P := by
  obtain ⟨row, -, hd⟩ := decodeOp_returns channel (w := w) hp hl
  have e := rowAction_control row channel p w.session
  have hcfg : (rowAction row channel p w.session).2.cfg = w.session.cfg := (congrArg Session.cfg e).trans rfl
  have hactive : (rowAction row channel p w.session).2.active = w.session.active :=
    (congrArg Session.active e).trans rfl
  rw [pollPacket, hd, Run.bind_done]
  refine Run.refusedOnly_bind (pollHandshake_refusedOnly _ (hcfg ▸ hw) fun f hf => h f (hactive ▸ hf)) fun u hu => ?_
  exact pollReturn_refusedOnly _ _ _ (by rw [pollHandshake_cfg hu]; exact hcfg ▸ hw)

theorem pollReceive_refusedOnly {w : Work} (hw : configWf w.session.cfg = true)
    (h : ∀ e ∈ w.session.active, P .intervalTooLong ∨ e.intervalMillis ≤ 4294967) : (pollReceive w).refusedOnly P := by
  refine Run.refusedOnly_bind (deframeOp_refusedOnly _ _) fun d hd => ?_
  obtain ⟨result, b⟩ := d
  cases result with
  | noData | transportError | truncated => exact pollReturn_refusedOnly (w := ⟨w.session, b⟩) _ _ _ hw
  | packet channel sequence p overflow =>
    obtain ⟨hd, c, hd⟩ := deframeOp_packet hd
    obtain ⟨hceil, -⟩ := configWf_ceiling hw
    obtain ⟨hcap, -⟩ := configWf_capacity hw
    obtain ⟨hlt, hlen⟩ := afterProbe_packet_length (by omega) hd
    exact pollPacket_refusedOnly (w := ⟨w.session, b⟩) channel hw (by omega) (by simp only; omega) h

theorem pollOp_refusedOnly {w : Work} (hw : configWf w.session.cfg = true)
    (hf : P .notAdmitted ∨ w.session.fsm ≠ .uninitialized)
    (h : ∀ e ∈ w.session.active, P .intervalTooLong ∨ e.intervalMillis ≤ 4294967) : (pollOp w).refusedOnly P := by
  unfold pollOp
  split
  next hu => exact Run.refusedOnly_refused (hf.resolve_right (not_not.2 hu))
  · refine Run.refusedOnly_bind (resetOp_refusedOnly hw) fun r _ => ?_
    split <;> exact Run.refusedOnly_done _
  · exact pollReceive_refusedOnly hw h
  · exact pollReceive_refusedOnly hw h

end

/-- A run that is refused on no ground returns or waits. -/
theorem exec_of_never_refused {α : Type} {i : Instr} {s : State} {x : Run α} {f : α → Result × Work}
    (hi : operationOf i ⟨s.session, s.bus⟩ = x.bind fun a => .done (f a)) (hw : configWf s.session.cfg = true)
    (h : x.refusedOnly fun _ => False) : ∃ t, exec i s = .next t := by
  cases x with
  | done a => exact ⟨_, exec_of_run hi hw rfl⟩
  | waits g => exact ⟨_, exec_next.2 ⟨hw, .inr ⟨g, hi, rfl⟩⟩⟩
  | refused r => exact (h r rfl).elim

/-- Settles O40: under the invariant the three host operations have no ground left on which to be refused. -/
theorem hostOperationsRunWhenAdmitted : Obligations.HostOperationsRunWhenAdmitted := by
  intro s h
  have hw := h.configuration
  refine ⟨fun hf => ?_, fun r ms c hf hms => ?_, fun hf => ?_⟩
  · exact exec_of_never_refused (x := openOp _) rfl hw (openOp_refusedOnly hw (.inr (openAdmitted_iff.2 hf)))
  · exact exec_of_never_refused (x := enableOp _ _ _ _) rfl hw (enableOp_refusedOnly r c hw (.inr hf) (.inr hms))
  · exact exec_of_never_refused (x := pollOp _) rfl hw
      (pollOp_refusedOnly hw (.inr hf) fun e he => .inr (h.intervals e he))

/-! ### Ill-formed configurations (R7) -/

/-- The bounds of R7, written out. -/
theorem configWf_iff (c : Config) : configWf c = true ↔
    21 ≤ c.ceiling ∧ c.ceiling ≤ 32767 ∧ 1 ≤ c.capacity ∧ 1 ≤ c.failThreshold ∧ c.qAccel ≤ 15 ∧ c.qLinAccel ≤ 15 ∧
    c.qGyro ≤ 15 ∧ c.qMag ≤ 15 ∧ c.qRot ≤ 15 ∧ ∀ q, c.qRotAcc = some q → q ≤ 15 := by
  simp [configWf, and_assoc, Option.all_eq_true]

/-- The refusals that are not for an ill-formed configuration. -/
def Refusal.notIllFormed (r : Refusal) : Prop := r ≠ .illFormedConfig

theorem nextSequenceOp_notIllFormed (channel : Byte) (s : Session) :
    (nextSequenceOp channel s).refusedOnly Refusal.notIllFormed := by
  unfold nextSequenceOp
  split
  · exact Run.refusedOnly_done _
  · exact Run.refusedOnly_refused nofun

theorem frameOp_notIllFormed (channel sequence : Byte) (payload : Bytes) :
    (frameOp channel sequence payload).refusedOnly Refusal.notIllFormed :=
  Run.refusedOnly_ite (fun _ => Run.refusedOnly_refused nofun) fun _ => Run.refusedOnly_done _

theorem sendOp_notIllFormed (channel : Byte) (payload : Bytes) (w : Work) :
    (sendOp channel payload w).refusedOnly Refusal.notIllFormed := by
  refine Run.refusedOnly_bind (nextSequenceOp_notIllFormed channel w.session) fun st _ => ?_
  refine Run.refusedOnly_bind (frameOp_notIllFormed _ _ _) fun bytes _ => ?_
  exact Run.refusedOnly_ite (fun _ => Run.refusedOnly_refused nofun) fun _ =>
    Run.refusedOnly_bind (busWrite_refusedOnly _ _) fun _ _ => Run.refusedOnly_done _

/-- Under a well-formed configuration no operation is refused for it. -/
theorem operationOf_notIllFormed (i : Instr) {w : Work} (hw : configWf w.session.cfg = true) :
    (operationOf i w).refusedOnly Refusal.notIllFormed := by
  have hadmitted : Refusal.notIllFormed .notAdmitted := nofun
  have hinterval : Refusal.notIllFormed .intervalTooLong := nofun
  cases i with
  | inPidr | inCmdr | inCtrlOther | inAccel | inGyro | inMag | inLinAccel | inRotVec | inGameRotVec | inSteps
  | inStability | inActivity | inSubOther | inReportsOther | inCh0 | inChOther | buildSoftReset
  | buildProductIdRequest => exact Run.refusedOnly_done _
  | outSetf | outSrst | outPidq | send =>
    exact Run.refusedOnly_bind (sendOp_notIllFormed _ _ w) fun _ _ => Run.refusedOnly_done _
  | header h => exact Run.refusedOnly_bind (afterProbe_refusedOnly _ h _) fun _ _ => Run.refusedOnly_done _
  | openSession =>
    exact Run.refusedOnly_bind (openOp_refusedOnly hw (.inl hadmitted)) fun _ _ => Run.refusedOnly_done _
  | enable r ms c =>
    exact Run.refusedOnly_bind (enableOp_refusedOnly r c hw (.inl hadmitted) (.inl hinterval)) fun _ _ =>
      Run.refusedOnly_done _
  | poll =>
    exact Run.refusedOnly_bind (pollOp_refusedOnly hw (.inl hadmitted) fun _ _ => .inl hinterval) fun _ _ =>
      Run.refusedOnly_done _
  | resetSequence => exact Run.refusedOnly_bind (resetOp_refusedOnly hw) fun _ _ => Run.refusedOnly_done _
  | drain => exact Run.refusedOnly_bind (drainLoop_refusedOnly _ _ _ _) fun _ _ => Run.refusedOnly_done _
  | replay =>
    exact Run.refusedOnly_bind (replayOp_refusedOnly hw fun _ _ => .inl hinterval) fun _ _ => Run.refusedOnly_done _
  | account failedNow =>
    exact Run.refusedOnly_bind (accountOp_refusedOnly failedNow hw) fun _ _ => Run.refusedOnly_done _
  | frame channel sequence payload =>
    exact Run.refusedOnly_bind (frameOp_notIllFormed channel sequence payload) fun _ _ => Run.refusedOnly_done _
  | deframe => exact Run.refusedOnly_bind (deframeOp_refusedOnly _ _) fun _ _ => Run.refusedOnly_done _
  | nextSequence channel =>
    exact Run.refusedOnly_bind (nextSequenceOp_notIllFormed channel _) fun _ _ => Run.refusedOnly_done _
  | decode channel payload =>
    refine Run.refusedOnly_bind ?_ fun _ _ => Run.refusedOnly_done _
    obtain e | ⟨r, -, -, e⟩ := decodeOp_cases channel payload w <;> rw [e]
    · exact Run.refusedOnly_refused nofun
    · exact Run.refusedOnly_done _
  | buildSetFeature r ms c =>
    exact Run.refusedOnly_bind (setFeatureOp_refusedOnly r c (.inl hinterval)) fun _ _ => Run.refusedOnly_done _
  | dequantize raw q =>
    refine Run.refusedOnly_bind ?_ fun _ _ => Run.refusedOnly_done _
    exact Run.refusedOnly_ite (fun _ => Run.refusedOnly_done _) fun _ => Run.refusedOnly_refused nofun

theorem readOperation_notIllFormed (p : Port) (w : Work) : (readOperation p w).refusedOnly Refusal.notIllFormed := by
  cases hv : readPort p w.session with
  | none => rw [readOperation_none hv]; exact Run.refusedOnly_refused nofun
  | some v => rw [readOperation_some hv]; exact Run.refusedOnly_done _

/-- An operation that no well-formed configuration refuses as ill-formed is so refused exactly under the others. -/
theorem perform_illFormed_iff {s : State} {operation : Work → Run (Result × Work)}
    (h : configWf s.session.cfg = true → (operation ⟨s.session, s.bus⟩).refusedOnly Refusal.notIllFormed) :
    perform s operation = .refused .illFormedConfig ↔ ¬configWf s.session.cfg = true := by
  refine ⟨fun hr hw => ?_, fun hw => perform_illFormed _ (Bool.eq_false_iff.2 hw)⟩
  cases ho : operation ⟨s.session, s.bus⟩ <;> simp [perform, hw, ho] at hr
  exact h hw _ ho hr

theorem retire_refused_iff {o : Host.Outcome State Fault Refusal} {r : Refusal} :
    retire o = .refused r ↔ o = .refused r := by
  cases o with
  | next t => simp [retire_next]
  | fault f => cases f
  | refused q => simp [retire]

/-- Settles O52: under a well-formed configuration nothing is refused for it, and under another everything is. -/
theorem illFormedConfigurationsAreRefused : Obligations.IllFormedConfigurationsAreRefused := by
  intro s illFormed
  have hwf : illFormed ↔ ¬configWf s.session.cfg = true := not_congr (configWf_iff _).symm
  refine ⟨fun i => ?_, fun p rest hp => ?_⟩ <;> rw [hwf]
  · rw [exec_eq_perform]
    exact perform_illFormed_iff fun hw => operationOf_notIllFormed i hw
  · rw [runNext_cons hp, retire_refused_iff]
    exact perform_illFormed_iff fun _ => readOperation_notIllFormed p _

end Sys2Proof.Machine
end

section
/-! SUPPORT. The family of the encoding (30_encoding.md): the rows of the map byte by byte, which instruction a row
stands for, and the round trip of packets and headers in both directions. -/

namespace Sys2Proof

open Sys2Proof.Machine

/-! ### The map, byte by byte (R111) -/

theorem append_eq_append_iff {v w : Nat} {a b : BitVec v} {x y : BitVec w} : a ++ x = b ++ y ↔ a = b ∧ x = y := by
  refine ⟨fun h => ⟨?_, ?_⟩, fun ⟨ha, hx⟩ => by rw [ha, hx]⟩
  · have e := congrArg (BitVec.extractLsb' w v) h
    rwa [BitVec.extractLsb'_append_eq_left, BitVec.extractLsb'_append_eq_left] at e
  · have e := congrArg (BitVec.extractLsb' 0 w) h
    rwa [BitVec.extractLsb'_append_eq_right, BitVec.extractLsb'_append_eq_right] at e

/-- A masked word of three bytes, byte by byte. -/
theorem threeBytes_and_eq {x y z mx my mz a b c : Byte} :
    (x ++ y ++ z) &&& (mx ++ my ++ mz) = a ++ b ++ c ↔ x &&& mx = a ∧ y &&& my = b ∧ z &&& mz = c := by
  rw [BitVec.and_append, BitVec.and_append, append_eq_append_iff, append_eq_append_iff, and_assoc]

theorem threeBytes_middle (x y z : Byte) : (x ++ y ++ z).extractLsb' 8 8 = y := by
  rw [BitVec.extractLsb'_append_eq_of_le (Nat.le_refl 8)]
  exact BitVec.extractLsb'_append_eq_right

theorem threeBytes_last (x y z : Byte) : (x ++ y ++ z).extractLsb' 0 8 = z := BitVec.extractLsb'_append_eq_right

/-- The row whose three bytes of match and mask are these. -/
def byteRow (row : InRow) (c a b mc ma mb : Byte) : MapRow := ⟨row, c ++ a ++ b, mc ++ ma ++ mb⟩

theorem byteRow_matches (row : InRow) (c a b mc ma mb : Byte) (channel : Byte) (p : Bytes) :
    (byteRow row c a b mc ma mb).matchesPacket channel p = true ↔
      (p[0]?.isSome ∨ ma = 0) ∧ (p[5]?.isSome ∨ mb = 0) ∧
      channel &&& mc = c ∧ p[0]?.getD 0 &&& ma = a ∧ p[5]?.getD 0 &&& mb = b := by
  have hword : dispatchWord channel p &&& (byteRow row c a b mc ma mb).mask = (byteRow row c a b mc ma mb).pattern ↔ _ :=
    threeBytes_and_eq
  have hmiddle : (byteRow row c a b mc ma mb).mask.extractLsb' 8 8 = ma := threeBytes_middle mc ma mb
  have hlast : (byteRow row c a b mc ma mb).mask.extractLsb' 0 8 = mb := threeBytes_last mc ma mb
  simp only [MapRow.matchesPacket, hmiddle, hlast, Bool.and_eq_true, Bool.or_eq_true, beq_iff_eq, hword, and_assoc]

theorem and_ff (x : Byte) : x &&& 0xFF = x := BitVec.and_allOnes

/-- A row for one sub-report: all three bytes count. -/
theorem subReportRow_matches {row : InRow} {c a b channel : Byte} {p : Bytes} :
    (byteRow row c a b 0xFF 0xFF 0xFF).matchesPacket channel p = true ↔
      channel = c ∧ p[0]? = some a ∧ p[5]? = some b := by
  rw [byteRow_matches, and_ff, and_ff, and_ff]
  cases p[0]? <;> cases p[5]? <;> simp

/-- A row for one report: the channel and the first byte count. -/
theorem reportRow_matches {row : InRow} {c a channel : Byte} {p : Bytes} :
    (byteRow row c a 0 0xFF 0xFF 0).matchesPacket channel p = true ↔ channel = c ∧ p[0]? = some a := by
  rw [byteRow_matches, and_ff, and_ff]
  cases p[0]? <;> simp

/-- A row for one channel. -/
theorem channelRow_matches {row : InRow} {c channel : Byte} {p : Bytes} :
    (byteRow row c 0 0 0xFF 0 0).matchesPacket channel p = true ↔ channel = c := by
  rw [byteRow_matches, and_ff]
  simp

/-- The last row matches everything. -/
theorem lastRow_matches {row : InRow} {channel : Byte} {p : Bytes} :
    (byteRow row 0 0 0 0 0 0).matchesPacket channel p = true := by
  rw [byteRow_matches]
  simp

theorem inboundMap_bytes : inboundMap =
    [byteRow .pidr 2 0xF8 0 0xFF 0xFF 0, byteRow .cmdr 2 0xF1 0 0xFF 0xFF 0, byteRow .ctrlOther 2 0 0 0xFF 0 0,
     byteRow .accel 3 0xFB 0x01 0xFF 0xFF 0xFF, byteRow .gyro 3 0xFB 0x02 0xFF 0xFF 0xFF,
     byteRow .mag 3 0xFB 0x03 0xFF 0xFF 0xFF, byteRow .linAccel 3 0xFB 0x04 0xFF 0xFF 0xFF,
     byteRow .rotVec 3 0xFB 0x05 0xFF 0xFF 0xFF, byteRow .gameRotVec 3 0xFB 0x08 0xFF 0xFF 0xFF,
     byteRow .steps 3 0xFB 0x11 0xFF 0xFF 0xFF, byteRow .stability 3 0xFB 0x13 0xFF 0xFF 0xFF,
     byteRow .activity 3 0xFB 0x1E 0xFF 0xFF 0xFF, byteRow .subOther 3 0xFB 0 0xFF 0xFF 0,
     byteRow .reportsOther 3 0 0 0xFF 0 0, byteRow .ch0 0 0 0 0xFF 0 0, byteRow .chOther 0 0 0 0 0 0] := by
  decide

theorem firstRow_cons (f : MapRow → Bool) (r : MapRow) (l : List MapRow) :
    ((r :: l).find? f).map (·.row) = if f r = true then some r.row else (l.find? f).map (·.row) := by
  cases h : f r <;> simp [h]

/-- The rows tried in order, each with the bytes that its mask covers. -/
theorem classifyByMap_eq (channel : Byte) (p : Bytes) : classifyByMap channel p =
    if channel = 2 ∧ p[0]? = some 0xF8 then some .pidr
    else if channel = 2 ∧ p[0]? = some 0xF1 then some .cmdr
    else if channel = 2 then some .ctrlOther
    else if channel = 3 ∧ p[0]? = some 0xFB ∧ p[5]? = some 0x01 then some .accel
    else if channel = 3 ∧ p[0]? = some 0xFB ∧ p[5]? = some 0x02 then some .gyro
    else if channel = 3 ∧ p[0]? = some 0xFB ∧ p[5]? = some 0x03 then some .mag
    else if channel = 3 ∧ p[0]? = some 0xFB ∧ p[5]? = some 0x04 then some .linAccel
    else if channel = 3 ∧ p[0]? = some 0xFB ∧ p[5]? = some 0x05 then some .rotVec
    else if channel = 3 ∧ p[0]? = some 0xFB ∧ p[5]? = some 0x08 then some .gameRotVec
    else if channel = 3 ∧ p[0]? = some 0xFB ∧ p[5]? = some 0x11 then some .steps
    else if channel = 3 ∧ p[0]? = some 0xFB ∧ p[5]? = some 0x13 then some .stability
    else if channel = 3 ∧ p[0]? = some 0xFB ∧ p[5]? = some 0x1E then some .activity
    else if channel = 3 ∧ p[0]? = some 0xFB then some .subOther
    else if channel = 3 then some .reportsOther
    else if channel = 0 then some .ch0
    else some .chOther := by
  simp only [classifyByMap, inboundMap_bytes, firstRow_cons, subReportRow_matches, reportRow_matches,
    channelRow_matches, lastRow_matches, if_true]
  rfl

/-- Settles O9: both dispatches, written out as conditions on the three bytes, ask the same questions in turn. -/
theorem dispatchIsTheFirstMatchingRow : Obligations.DispatchIsTheFirstMatchingRow := by
  intro channel p hp
  obtain ⟨a, rest, rfl⟩ := List.exists_cons_of_ne_nil hp
  rw [classifyByMap_eq, classify_cons, List.getElem?_cons_zero]
  by_cases h2 : channel = 2#8
  · simp [h2, apply_ite some]
  by_cases h3 : channel = 3#8
  · by_cases ha : a = 0xFB#8
    · cases hb : (a :: rest)[5]? with
      | none => simp [h3, ha, subReportRow]
      | some b => simp [h3, ha, subReportRow_some, apply_ite some]
    · simp [h3, ha]
  · simp [h2, h3, apply_ite some]

/-! ### Which instruction a row stands for (R112) -/

/-- The channel of a row; the last row takes any that is left. -/
def InRow.channel (r : InRow) (other : Byte) : Byte :=
  match r with
  | .pidr | .cmdr | .ctrlOther => 2
  | .ch0 => 0
  | .chOther => other
  | _ => 3

theorem startsWith_iff {id : Byte} {p : Bytes} :
    startsWith id p = true ↔ payloadInRange p = true ∧ ∃ rest, p = id :: rest := by
  cases p with
  | nil => simp [startsWith]
  | cons a rest =>
    simp only [startsWith, Bool.and_eq_true, List.getElem?_cons_zero, beq_iff_eq, Option.some.injEq, List.cons.injEq,
      exists_and_left, exists_eq', and_true]

theorem isSubReport_iff {sub : Byte} {p : Bytes} :
    isSubReport sub p = true ↔ startsWith 0xFB p = true ∧ p[5]? = some sub := by simp [isSubReport]

theorem classify_of_subReport {sub : Byte} {p : Bytes} (h : isSubReport sub p = true) :
    classify 3 p = some (subReportRow (some sub)) := by
  obtain ⟨hs, hsub⟩ := isSubReport_iff.1 h
  obtain ⟨-, rest, rfl⟩ := startsWith_iff.1 hs
  rw [classify_reports_report, hsub]

theorem classify_of_subOther {p : Bytes} (h : startsWith 0xFB p = true)
    (hsub : decodedSubIds.all (fun sub => p[5]? != some sub) = true) : classify 3 p = some .subOther := by
  obtain ⟨-, rest, rfl⟩ := startsWith_iff.1 h
  rw [classify_reports_report]
  cases hb : (0xFB :: rest)[5]? with
  | none => rfl
  | some b =>
    refine congrArg some (subReportRow_unknown fun hmem => ?_)
    have hne := List.all_eq_true.1 hsub b hmem
    rw [hb, bne_self_eq_false] at hne
    cases hne

theorem nonempty_of_payloadInRange {p : Bytes} (h : payloadInRange p = true) : ∃ a rest, p = a :: rest :=
  List.exists_cons_of_length_pos (Laws.length_of_payloadInRange h).1

/-- A row finds the packets whose payload it admits, on its channel. -/
theorem classify_of_wellFormed (r : InRow) (channel : Byte) {p : Bytes} (h : (r.instr channel p).wellFormed = true) :
    classify (r.channel channel) p = some r := by
  cases r with
  | accel | gyro | mag | linAccel | rotVec | gameRotVec | steps | stability | activity =>
    exact classify_of_subReport h
  | subOther =>
    obtain ⟨hs, hsub⟩ := (Bool.and_eq_true _ _).mp h
    exact classify_of_subOther hs hsub
  | pidr | cmdr =>
    obtain ⟨-, rest, rfl⟩ := startsWith_iff.1 h
    rfl
  | ctrlOther =>
    simp only [InRow.instr, Instr.wellFormed, Bool.and_eq_true] at h
    obtain ⟨⟨hp, h8⟩, h1⟩ := h
    obtain ⟨a, rest, rfl⟩ := nonempty_of_payloadInRange hp
    exact classify_control_other rest (by simpa using h8) (by simpa using h1)
  | reportsOther =>
    simp only [InRow.instr, Instr.wellFormed, Bool.and_eq_true] at h
    obtain ⟨hp, hB⟩ := h
    obtain ⟨a, rest, rfl⟩ := nonempty_of_payloadInRange hp
    exact classify_reports_other rest (by simpa using hB)
  | ch0 =>
    obtain ⟨a, rest, rfl⟩ := nonempty_of_payloadInRange h
    rfl
  | chOther =>
    simp only [InRow.instr, Instr.wellFormed, Bool.and_eq_true] at h
    obtain ⟨⟨⟨hp, h0⟩, h2⟩, h3⟩ := h
    obtain ⟨a, rest, rfl⟩ := nonempty_of_payloadInRange hp
    show classify channel (a :: rest) = _
    exact classify_other a rest (by simpa using h0) (by simpa using h2) (by simpa using h3)

/-- The row of an input report admits it. -/
theorem subReportRow_wellFormed {p : Bytes} (channel : Byte) (h : startsWith 0xFB p = true) :
    ((subReportRow p[5]?).instr channel p).wellFormed = true ∧ (subReportRow p[5]?).channel channel = 3 := by
  cases hb : p[5]? with
  | none =>
    refine ⟨?_, rfl⟩
    simp only [subReportRow, InRow.instr, Instr.wellFormed, h, hb, Bool.true_and]
    rfl
  | some b =>
    by_cases hk : b ∈ decodedSubIds
    · have hs : isSubReport b p = true := isSubReport_iff.2 ⟨h, hb⟩
      simp only [decodedSubIds, List.mem_cons, List.not_mem_nil, or_false] at hk
      rcases hk with rfl | rfl | rfl | rfl | rfl | rfl | rfl | rfl | rfl <;> exact ⟨hs, rfl⟩
    · rw [subReportRow_unknown hk]
      refine ⟨(Bool.and_eq_true _ _).mpr ⟨h, List.all_eq_true.2 fun sub hsub => ?_⟩, rfl⟩
      rw [hb, bne_iff_ne]
      rintro ⟨⟩
      exact hk hsub

/-- The row of a packet admits its channel and payload. -/
theorem wellFormed_of_classify {r : InRow} {channel : Byte} {p : Bytes} (hp : payloadInRange p = true)
    (h : classify channel p = some r) : (r.instr channel p).wellFormed = true ∧ r.channel channel = channel := by
  obtain ⟨a, rest, rfl⟩ := nonempty_of_payloadInRange hp
  rw [classify_cons, Option.some.injEq] at h
  split at h
  next h2 =>
    split at h
    next h8 => subst h h2 h8; exact ⟨startsWith_iff.2 ⟨hp, rest, rfl⟩, rfl⟩
    next h8 =>
      split at h
      next h1 => subst h h2 h1; exact ⟨startsWith_iff.2 ⟨hp, rest, rfl⟩, rfl⟩
      next h1 => subst h h2; exact ⟨by simp [InRow.instr, Instr.wellFormed, hp, h8, h1], rfl⟩
  next h2 =>
    split at h
    next h3 =>
      split at h
      next hB =>
        subst h h3 hB
        exact subReportRow_wellFormed 3 (startsWith_iff.2 ⟨hp, rest, rfl⟩)
      next hB => subst h h3; exact ⟨by simp [InRow.instr, Instr.wellFormed, hp, hB], rfl⟩
    next h3 =>
      split at h
      next h0 => subst h h0; exact ⟨hp, rfl⟩
      next h0 => subst h; exact ⟨by simp [InRow.instr, Instr.wellFormed, hp, h0, h2, h3], rfl⟩

/-! ### Inbound packets -/

theorem encode_row (r : InRow) (channel ss : Byte) (p : Bytes) :
    encode (r.instr channel p) ss = some (.inbound, packetBytes (r.channel channel) ss p) := by cases r <;> rfl

/-- The packet of a classified payload decodes to the instruction of its row. -/
theorem decodeInbound_packet {r : InRow} {channel : Byte} {p : Bytes} (ss : Byte) (hl : p.length ≤ 32763)
    (h : classify channel p = some r) : decodeInbound (packetBytes channel ss p) = .ok (r.instr channel p) := by
  have hlen : ¬(BitVec.ofNat 15 (p.length + 4)).toNat ≠ (packetBytes channel ss p).length := by
    rw [not_not, packetBytes_length, frameLength_toNat hl]
  simp only [decodeInbound, Laws.header_read_packet, if_neg hlen, Laws.drop_packetBytes, h]

/-- A row admits only payloads that a deframe can deliver. -/
theorem payloadInRange_of_wellFormed {r : InRow} {channel : Byte} {p : Bytes}
    (h : (r.instr channel p).wellFormed = true) : payloadInRange p = true := by
  cases r with
  | pidr | cmdr => exact (startsWith_iff.1 h).1
  | accel | gyro | mag | linAccel | rotVec | gameRotVec | steps | stability | activity =>
    exact (startsWith_iff.1 (isSubReport_iff.1 h).1).1
  | subOther => exact (startsWith_iff.1 ((Bool.and_eq_true _ _).mp h).1).1
  | ctrlOther | reportsOther | chOther =>
    simp only [InRow.instr, Instr.wellFormed, Bool.and_eq_true] at h
    tauto
  | ch0 => exact h

/-- What a row admits decodes to it; a row of one channel stands for the same instruction whatever channel is named. -/
theorem decode_encode_row (r : InRow) (channel : Byte) {ss : Byte} {p : Bytes} {f : Form} {bytes : Bytes}
    (hc : r.instr (r.channel channel) p = r.instr channel p) (hw : (r.instr channel p).wellFormed = true)
    (h : encode (r.instr channel p) ss = some (f, bytes)) : decode f bytes = .ok (r.instr channel p) := by
  rw [encode_row] at h
  cases h
  obtain ⟨-, hl⟩ := Laws.length_of_payloadInRange (payloadInRange_of_wellFormed hw)
  exact hc ▸ decodeInbound_packet ss hl (classify_of_wellFormed r channel hw)

/-! ### Outbound packets -/

theorem word32_bytes (v : Word32) :
    v.extractLsb' 24 8 ++ v.extractLsb' 16 8 ++ v.extractLsb' 8 8 ++ v.extractLsb' 0 8 = v := by
  have h16 : v.extractLsb' 24 8 ++ v.extractLsb' 16 8 = v.extractLsb' 16 16 :=
    BitVec.extractLsb'_append_extractLsb'_eq_extractLsb' rfl
  have h24 : v.extractLsb' 16 16 ++ v.extractLsb' 8 8 = v.extractLsb' 8 24 :=
    BitVec.extractLsb'_append_extractLsb'_eq_extractLsb' rfl
  have h32 : v.extractLsb' 8 24 ++ v.extractLsb' 0 8 = v.extractLsb' 0 32 :=
    BitVec.extractLsb'_append_extractLsb'_eq_extractLsb' rfl
  rw [h16, h24, h32]
  exact BitVec.extractLsb'_eq_self

theorem bytesLe32_word (b0 b1 b2 b3 : Byte) : bytesLe32 (b3 ++ b2 ++ b1 ++ b0) = [b0, b1, b2, b3] := by
  have h0 : (b3 ++ b2 ++ b1 ++ b0).extractLsb' 0 8 = b0 := BitVec.extractLsb'_append_eq_right
  have h1 : (b3 ++ b2 ++ b1 ++ b0).extractLsb' 8 8 = b1 := by
    rw [BitVec.extractLsb'_append_eq_of_le (by decide)]
    exact BitVec.extractLsb'_append_eq_right
  have h2 : (b3 ++ b2 ++ b1 ++ b0).extractLsb' 16 8 = b2 := by
    rw [BitVec.extractLsb'_append_eq_of_le (by decide), BitVec.extractLsb'_append_eq_of_le (by decide)]
    exact BitVec.extractLsb'_append_eq_right
  have h3 : (b3 ++ b2 ++ b1 ++ b0).extractLsb' 24 8 = b3 := by
    rw [BitVec.extractLsb'_append_eq_of_le (by decide), BitVec.extractLsb'_append_eq_of_le (by decide)]
    exact BitVec.extractLsb'_append_eq_left
  exact congr_arg₂ _ h0 (congr_arg₂ _ h1 (congr_arg₂ _ h2 (congr_arg₂ _ h3 rfl)))

theorem decodeSetFeature_payload (r : Byte) (micros c : Word32) :
    decodeSetFeature (setFeaturePayload r micros c) = some (.outSetf r micros c) := by
  simp only [setFeaturePayload, bytesLe32, List.cons_append, List.nil_append, decodeSetFeature, and_self, if_true,
    word32_bytes]

/-- Only the payloads of set-feature packets decode as such (R99, R117). -/
theorem decodeSetFeature_some {p : Bytes} {i : Instr} (h : decodeSetFeature p = some i) :
    ∃ r micros c, i = .outSetf r micros c ∧ p = setFeaturePayload r micros c := by
  unfold decodeSetFeature at h
  split at h
  · split at h
    next hfixed =>
      obtain ⟨rfl, rfl, rfl, rfl, rfl, rfl, rfl, rfl⟩ := hfixed
      cases h
      exact ⟨_, _, _, rfl, by simp only [setFeaturePayload, bytesLe32_word, List.cons_append, List.nil_append]⟩
    · cases h
  · cases h

section
variable {channel ss : Byte} {p : Bytes} (hl : p.length ≤ 32763)
include hl

/-- An outbound packet with a header of its own making is told by its channel and payload alone. -/
theorem decodeOutbound_checked : decodeOutbound (packetBytes channel ss p) =
    if channel = Channel.executable.code ∧ p = [softResetByte] then .ok .outSrst
    else if channel = Channel.control.code ∧ p = [idProductIdRequest, 0x00] then .ok .outPidq
    else if channel = Channel.control.code then (decodeSetFeature p).elim (.error .notOutbound) .ok
    else .error .notOutbound := by
  have hlen : ¬(BitVec.ofNat 15 (p.length + 4)).toNat ≠ (packetBytes channel ss p).length := by
    rw [not_not, packetBytes_length, frameLength_toNat hl]
  simp only [decodeOutbound, Laws.header_read_packet, if_neg hlen, Laws.drop_packetBytes, Bool.false_eq_true, if_false]
  cases decodeSetFeature p <;> rfl

end

/-- Settles O7: an inbound packet is found again by its row, an outbound one by its pattern, a header by its fields. -/
theorem decodeOfEncodeIsTheInstruction : Obligations.DecodeOfEncodeIsTheInstruction := by
  intro i ss f bytes hw h
  cases i with
  | inPidr => exact decode_encode_row .pidr 2 rfl hw h
  | inCmdr => exact decode_encode_row .cmdr 2 rfl hw h
  | inCtrlOther => exact decode_encode_row .ctrlOther 2 rfl hw h
  | inAccel => exact decode_encode_row .accel 3 rfl hw h
  | inGyro => exact decode_encode_row .gyro 3 rfl hw h
  | inMag => exact decode_encode_row .mag 3 rfl hw h
  | inLinAccel => exact decode_encode_row .linAccel 3 rfl hw h
  | inRotVec => exact decode_encode_row .rotVec 3 rfl hw h
  | inGameRotVec => exact decode_encode_row .gameRotVec 3 rfl hw h
  | inSteps => exact decode_encode_row .steps 3 rfl hw h
  | inStability => exact decode_encode_row .stability 3 rfl hw h
  | inActivity => exact decode_encode_row .activity 3 rfl hw h
  | inSubOther => exact decode_encode_row .subOther 3 rfl hw h
  | inReportsOther => exact decode_encode_row .reportsOther 3 rfl hw h
  | inCh0 => exact decode_encode_row .ch0 0 rfl hw h
  | inChOther channel => exact decode_encode_row .chOther channel rfl hw h
  | outSetf r micros c =>
    cases h
    refine (decodeOutbound_checked (p := setFeaturePayload r micros c) (show 17 ≤ 32763 by decide)).trans ?_
    rw [decodeSetFeature_payload]
    rfl
  | outSrst => cases h; exact decodeOutbound_checked (show 1 ≤ 32763 by decide)
  | outPidq => cases h; exact decodeOutbound_checked (show 2 ≤ 32763 by decide)
  | header hd =>
    cases h
    simp only [decode, decodeHeader, Laws.header_read_bytes]
  | _ => cases h

/-! ### Received bytes -/

/-- The 4 bytes that read as a header are those of that header. -/
theorem header_bytes_of_read {bytes : Bytes} {h : Header} (e : Header.read bytes = some h) : h.bytes = bytes := by
  match bytes, e with
  | [l, m, c, s], e =>
    obtain ⟨hlen, hcont, rfl, rfl⟩ := header_fields e
    have hraw := headerRaw_toNat h
    have hl := l.isLt
    have hm := m.isLt
    have hflag : h.continuation.toNat = m.toNat / 128 := by
      rw [hcont, BitVec.getLsbD, Nat.toNat_testBit]
      omega
    have h0 : h.raw.extractLsb' 0 8 = l := by
      apply BitVec.eq_of_toNat_eq
      rw [BitVec.extractLsb'_toNat, Nat.shiftRight_zero]
      omega
    have h8 : h.raw.extractLsb' 8 8 = m := by
      apply BitVec.eq_of_toNat_eq
      rw [BitVec.extractLsb'_toNat, Nat.shiftRight_eq_div_pow]
      omega
    rw [Header.bytes, h0, h8]

/-- A string whose header tells its length is the packet of that header, but for the flag (R91, R94, R118). -/
theorem packetBytes_of_header {bytes : Bytes} {h : Header} (e : Header.read (bytes.take 4) = some h)
    (hlen : h.length.toNat = bytes.length) : (bytes.drop 4).length ≤ 32763 ∧
      packetBytes h.channel (bytes[3]?.getD 0) (bytes.drop 4) = withoutFlag bytes := by
  obtain ⟨l, m, c, s, rest, rfl⟩ := header_of_take e
  obtain ⟨hl, -, rfl, -⟩ := header_fields e
  have hlb := l.isLt
  have hmb := m.isLt
  rw [hl] at hlen
  simp only [List.length_cons] at hlen
  have hmax : rest.length ≤ 32763 := by omega
  have hlow : BitVec.ofNat 8 (rest.length + 4) = l := by
    apply BitVec.eq_of_toNat_eq
    rw [BitVec.toNat_ofNat]
    omega
  have hhigh : BitVec.ofNat 8 ((rest.length + 4) / 256) = m &&& 0x7F := by
    apply BitVec.eq_of_toNat_eq
    rw [BitVec.toNat_ofNat, BitVec.toNat_and, show (0x7F : Byte).toNat = 2 ^ 7 - 1 from rfl,
      Nat.and_two_pow_sub_one_eq_mod]
    omega
  refine ⟨hmax, ?_⟩
  show packetBytes h.channel s rest = l :: (m &&& 0x7F) :: h.channel :: s :: rest
  rw [packetBytes_eq _ _ hmax, hlow, hhigh]
  rfl

theorem decodeInbound_ok {bytes : Bytes} {i : Instr} (h : decodeInbound bytes = .ok i) :
    ∃ hd r, Header.read (bytes.take 4) = some hd ∧ hd.length.toNat = bytes.length ∧
      classify hd.channel (bytes.drop 4) = some r ∧ i = r.instr hd.channel (bytes.drop 4) := by
  unfold decodeInbound at h
  split at h
  · cases h
  next hd hr =>
    split at h
    · cases h
    next hlen =>
      split at h
      · cases h
      next r hc => cases h; exact ⟨hd, r, hr, not_not.1 hlen, hc, rfl⟩

theorem decodeOutbound_ok {bytes : Bytes} {i : Instr} (h : decodeOutbound bytes = .ok i) :
    ∃ hd, Header.read (bytes.take 4) = some hd ∧ hd.length.toNat = bytes.length ∧ i.wellFormed = true ∧
      ∀ ss, encode i ss = some (.outbound, packetBytes hd.channel ss (bytes.drop 4)) := by
  unfold decodeOutbound at h
  split at h
  · cases h
  next hd hr =>
    split at h
    · cases h
    split at h
    · cases h
    next hlen =>
      refine ⟨hd, hr, not_not.1 hlen, ?_⟩
      split at h
      next hs => cases h; exact ⟨rfl, fun ss => by rw [hs.1, hs.2]; rfl⟩
      split at h
      next hs => cases h; exact ⟨rfl, fun ss => by rw [hs.1, hs.2]; rfl⟩
      split at h
      next hs =>
        split at h
        next hi =>
          cases h
          obtain ⟨r, micros, c, rfl, hp⟩ := decodeSetFeature_some hi
          exact ⟨rfl, fun ss => by rw [hs, hp]; rfl⟩
        · cases h
      · cases h

/-- Settles O8: the header that was read, the row or pattern that was found, and the payload make up the bytes again. -/
theorem encodeOfDecodeIsThePacket : Obligations.EncodeOfDecodeIsThePacket := by
  intro f bytes i h
  cases f with
  | inbound =>
    obtain ⟨hd, r, hr, hlen, hc, rfl⟩ := decodeInbound_ok h
    obtain ⟨hmax, hpacket⟩ := packetBytes_of_header hr hlen
    have hp : payloadInRange (bytes.drop 4) = true := by
      have hne : bytes.drop 4 ≠ [] := fun h0 => by rw [h0] at hc; cases hc
      exact (Bool.and_eq_true _ _).mpr ⟨decide_eq_true (List.length_pos_iff.2 hne), decide_eq_true hmax⟩
    obtain ⟨hw, hchannel⟩ := wellFormed_of_classify hp hc
    exact ⟨hw, by rw [encode_row, hchannel, hpacket]; rfl⟩
  | outbound =>
    obtain ⟨hd, hr, hlen, hw, henc⟩ := decodeOutbound_ok h
    exact ⟨hw, by rw [henc, (packetBytes_of_header hr hlen).2]; rfl⟩
  | header =>
    simp only [decode, decodeHeader] at h
    split at h
    next hd hr =>
      cases h
      exact ⟨rfl, by simp [encode, header_bytes_of_read hr]⟩
    · cases h

/-- Settles O6: the decoder is run on each of the words. -/
theorem decodeReadsWrittenWords : Obligations.DecodeReadsWrittenWords :=
  ⟨fun _ => rfl, fun _ => rfl, by decide, fun _ => rfl, by decide, by decide, by decide⟩

end Sys2Proof
end

section
/-! SUPPORT. The report decoder's family, continued (42_decoder.md): short payloads, and the retained bytes on which a
packet is decoded (R184, R185). -/

namespace Sys2Proof.Machine

/-! ### A row and `decode` on a payload that is retained whole -/

/-- Settles O10: in its domain `decode` is the action of its row, and its whole payload is retained; outside it the
length or the empty payload refuses. -/
theorem decodeRunsItsRow : Obligations.DecodeRunsItsRow := by
  intro s channel p hw
  refine ⟨fun r hc hl => ⟨?_, _, _, exec_decode hw hc hl rfl⟩, fun h => ?_⟩
  · have hrow := exec_row r channel (p := p) hw rfl
    rw [List.take_of_length_le hl] at hrow
    exact (exec_decode hw hc hl rfl).trans hrow.symm
  · rw [exec_eq_perform]
    refine perform_refused hw ?_
    obtain e | ⟨r, hc, hl, -⟩ := decodeOp_cases channel p ⟨s.session, s.bus⟩
    · simp [operationOf, e]
    · obtain rfl | hlong := h
      · cases hc
      · exact absurd hl (Nat.not_le.2 hlong)

/-! ### Short payloads (R184) -/

/-- Less of the payload than the action of its row needs (R184). -/
def rowTooShort (r : InRow) (p : Bytes) : Prop :=
  (r = .cmdr ∧ (p.length < 3 ∨ (p[2]? = some 7 ∧ p.length < 6))) ∨
  (r = .subOther ∧ p.length < 6) ∨
  (r ∈ [InRow.accel, .gyro, .mag, .linAccel, .rotVec, .gameRotVec, .steps] ∧ p.length < 15) ∨
  (r = .stability ∧ p.length < 10) ∨ (r = .activity ∧ p.length < 20)

theorem rowAction_tooShort {r : InRow} {p : Bytes} (channel : Byte) (s : Session) (h : rowTooShort r p) :
    rowAction r channel p s = (.incomplete, s) := by
  obtain ⟨rfl, h⟩ | ⟨rfl, h⟩ | ⟨hr, h⟩ | ⟨rfl, h⟩ | ⟨rfl, h⟩ := h
  · exact actCmdr_short s h
  · exact actSubOther_short s h
  · simp only [List.mem_cons, List.not_mem_nil, or_false] at hr
    obtain rfl | rfl | rfl | rfl | rfl | rfl | rfl := hr <;> exact writeSlot_short h
  · exact writeSlot_short h
  · exact writeSlot_short h

/-- Settles O16: both answers are the action of the row on the retained payload, which is too short for it. -/
theorem shortPayloadsAreIncomplete : Obligations.ShortPayloadsAreIncomplete := by
  intro s channel p r hw hc retained h
  have hshort : rowAction r channel retained s.session = (.incomplete, s.session) :=
    rowAction_tooShort channel s.session h
  refine ⟨exec_row r channel hw hshort, fun hl => exec_decode hw hc hl ?_⟩
  rwa [show retained = p from List.take_of_length_le hl] at hshort

/-! ### The retained bytes (R185) -/

/-- The rows of input reports (R112). -/
theorem subReportRow_cases (o : Option Byte) : subReportRow o = .subOther ∨
    subReportRow o ∈ [InRow.accel, .gyro, .mag, .linAccel, .rotVec, .gameRotVec, .steps] ∨
    subReportRow o = .stability ∨ subReportRow o = .activity := by
  cases o with
  | none => exact .inl rfl
  | some b =>
    by_cases hk : b ∈ decodedSubIds
    · simp only [decodedSubIds, List.mem_cons, List.not_mem_nil, or_false] at hk
      rcases hk with rfl | rfl | rfl | rfl | rfl | rfl | rfl | rfl | rfl <;> decide
    · exact .inl (subReportRow_unknown hk)

theorem subReportRow_tooShort (o : Option Byte) {p : Bytes} (h : p.length < 6) :
    rowTooShort (subReportRow o) p := by
  obtain hr | hr | hr | hr := subReportRow_cases o
  · exact .inr (.inl ⟨hr, h⟩)
  · exact .inr (.inr (.inl ⟨hr, by omega⟩))
  · exact .inr (.inr (.inr (.inl ⟨hr, by omega⟩)))
  · exact .inr (.inr (.inr (.inr ⟨hr, by omega⟩)))

/-- A payload's row is decided by its channel, its first byte and its sixth. -/
theorem classify_sixth (channel a : Byte) {x y : Bytes} (h : (a :: x)[5]? = (a :: y)[5]?) :
    classify channel (a :: x) = classify channel (a :: y) := by rw [classify_cons, classify_cons, h]

/-- Away from input reports the sixth byte does not count. -/
theorem classify_first {channel a : Byte} (x y : Bytes) (h : ¬(channel = 3#8 ∧ a = 0xFB#8)) :
    classify channel (a :: x) = classify channel (a :: y) := by
  rw [classify_cons, classify_cons]
  by_cases h3 : channel = 3#8
  · have ha : a ≠ 0xFB#8 := fun ha => h ⟨h3, ha⟩
    simp [h3, ha]
  · simp [h3]

/-- What is retained has the row of the whole payload, or the sixth byte of an input report is cut off, and then
both rows find it too short (R185, log 15). -/
theorem classify_take {channel : Byte} {p : Bytes} {r : InRow} {n : Nat} (hn : 1 ≤ n) (hc : classify channel p = some r) :
    ∃ q, classify channel (p.take n) = some q ∧
      (q = r ∨ rowTooShort q (p.take n) ∧ rowTooShort r (p.take n)) := by
  obtain ⟨n, rfl⟩ := Nat.exists_eq_add_of_le' hn
  cases p with
  | nil => cases hc
  | cons a rest =>
    rw [List.take_succ_cons]
    by_cases hsix : 5 ≤ n
    · have hkept : (a :: rest.take n)[5]? = (a :: rest)[5]? := by
        rw [List.getElem?_cons_succ, List.getElem?_cons_succ, List.getElem?_take_of_lt hsix]
      exact ⟨r, (classify_sixth channel a hkept).trans hc, .inl rfl⟩
    by_cases hreport : channel = 3#8 ∧ a = 0xFB#8
    · obtain ⟨rfl, rfl⟩ := hreport
      have hlen : (0xFB#8 :: rest.take n).length < 6 := by
        rw [List.length_cons, List.length_take]
        omega
      cases hc
      exact ⟨_, classify_reports_report _, .inr ⟨subReportRow_tooShort _ hlen, subReportRow_tooShort _ hlen⟩⟩
    · exact ⟨r, (classify_first _ _ hreport).trans hc, .inl rfl⟩

section
variable {n : Nat} {p : Bytes}

theorem memRead_take {a k : Nat} (h : a + k ≤ n) : memRead (p.take n) a k = memRead p a k := by
  have hlen : a + k ≤ min n p.length ↔ a + k ≤ p.length := by omega
  have htake : ((p.take n).drop a).take k = (p.drop a).take k := by
    rw [List.drop_take, List.take_take, Nat.min_eq_left (by omega)]
  simp only [memRead, List.length_take, hlen, htake]

theorem le16_take {i : Nat} (h : i + 2 ≤ n) : le16 (p.take n) i = le16 p i := by rw [le16, memRead_take h]; rfl

theorem le32_take {i : Nat} (h : i + 4 ≤ n) : le32 (p.take n) i = le32 p i := by rw [le32, memRead_take h]; rfl

theorem writeSlot_take {α : Type} {kind : Kind} {minimum : Nat} {record record' : Option α} {put : α → Session}
    {s : Session} (h : minimum ≤ n) (hr : record = record') :
    writeSlot kind minimum (p.take n) record put s = writeSlot kind minimum p record' put s := by
  have hlen : min n p.length < minimum ↔ p.length < minimum := by omega
  simp only [writeSlot, List.length_take, hlen, hr]

/-- No action reads past the twentieth byte (R184). -/
theorem rowAction_take (r : InRow) (channel : Byte) (s : Session) (hn : 20 ≤ n) :
    rowAction r channel (p.take n) s = rowAction r channel p s := by
  have hbyte {i : Nat} (hi : i < 20) : (p.take n)[i]? = p[i]? := List.getElem?_take_of_lt (by omega)
  have hword {i : Nat} (hi : i + 2 ≤ 20) : le16 (p.take n) i = le16 p i := le16_take (by omega)
  have hstatus : reportStatus (p.take n) = reportStatus p := by rw [reportStatus, hbyte (by decide)]; rfl
  have htime : reportTimestamp (p.take n) = reportTimestamp p := le32_take (by omega)
  have htriplet : tripletRecord (p.take n) = tripletRecord p := by
    simp only [tripletRecord, hstatus, htime, hword (i := 9) (by decide), hword (i := 11) (by decide),
      hword (i := 13) (by decide)]
  have hquaternion (source : Byte) : quaternionRecord source (p.take n) = quaternionRecord source p := by
    simp only [quaternionRecord, hstatus, htime, quaternionReal_eq, radianAccuracy_eq, hword (i := 9) (by decide),
      hword (i := 11) (by decide), hword (i := 13) (by decide), hword (i := 15) (by decide), hword (i := 17) (by decide)]
  cases r with
  | pidr | ctrlOther | reportsOther | ch0 | chOther => rfl
  | cmdr => simp only [rowAction, actCmdr, hbyte (i := 2) (by decide), hbyte (i := 5) (by decide)]
  | accel | gyro | mag | linAccel => exact writeSlot_take (by omega) htriplet
  | rotVec | gameRotVec => exact writeSlot_take (by omega) (hquaternion _)
  | steps =>
    refine writeSlot_take (by omega) ?_
    simp only [stepRecord, hstatus, htime, hword (i := 13) (by decide)]
  | stability =>
    refine writeSlot_take (by omega) ?_
    simp only [stabilityRecord, hstatus, htime, hbyte (i := 9) (by decide)]
  | activity =>
    have hconfidence : confidenceEntries (p.take n) = confidenceEntries p := by
      rw [confidenceEntries, memRead_take (by omega)]; rfl
    refine writeSlot_take (by omega) ?_
    simp only [activityRecord, hstatus, htime, hbyte (i := 10) (by decide), hconfidence]
  | subOther =>
    have hlen : min n p.length < 6 ↔ p.length < 6 := by omega
    simp only [rowAction, actSubOther, List.length_take, hlen]

end

/-- The session with another configuration. -/
def Session.withCfg (s : Session) (c : Config) : Session := { s with cfg := c }

theorem writeSlot_withCfg {α : Type} {kind : Kind} {minimum : Nat} {p : Bytes} {record : Option α}
    {put put' : α → Session} {s : Session} {c : Config} (h : ∀ r, put' r = (put r).withCfg c) :
    writeSlot kind minimum p record put' (s.withCfg c) =
      ((writeSlot kind minimum p record put s).1, (writeSlot kind minimum p record put s).2.withCfg c) := by
  unfold writeSlot
  split
  · rfl
  · cases record with
    | none => rfl
    | some r => exact Prod.ext rfl (h r)

/-- The three kinds of command responses (R163, R164). -/
theorem cmdr_cases (p : Bytes) : (p.length < 3 ∨ (p[2]? = some meCalibrate ∧ p.length < 6)) ∨
    (∃ command, p[2]? = some command ∧ command ≠ meCalibrate) ∨
    ∃ r0, p[2]? = some meCalibrate ∧ p[5]? = some r0 := by
  cases hc : p[2]? with
  | none => exact .inl (.inl (Nat.lt_succ_of_le (List.getElem?_eq_none_iff.1 hc)))
  | some command =>
    by_cases hm : command = meCalibrate
    · subst hm
      cases h0 : p[5]? with
      | none => exact .inl (.inr ⟨rfl, Nat.lt_succ_of_le (List.getElem?_eq_none_iff.1 h0)⟩)
      | some r0 => exact .inr (.inr ⟨r0, rfl, rfl⟩)
    · exact .inr (.inl ⟨command, rfl, hm⟩)

/-- No action looks at the configuration (R185). -/
theorem rowAction_withCfg (r : InRow) (channel : Byte) (p : Bytes) (s : Session) (c : Config) :
    rowAction r channel p (s.withCfg c) = ((rowAction r channel p s).1, (rowAction r channel p s).2.withCfg c) := by
  cases r with
  | pidr | ctrlOther | reportsOther | ch0 | chOther => rfl
  | cmdr =>
    show actCmdr p (s.withCfg c) = ((actCmdr p s).1, (actCmdr p s).2.withCfg c)
    obtain hshort | ⟨command, hc, hne⟩ | ⟨r0, hc, h0⟩ := cmdr_cases p
    · rw [actCmdr_short _ hshort, actCmdr_short _ hshort]
    · rw [actCmdr_acknowledged _ hc hne, actCmdr_acknowledged _ hc hne]
    · rw [actCmdr_calibrated _ hc h0, actCmdr_calibrated _ hc h0]
      rfl
  | accel | gyro | mag | linAccel | rotVec | gameRotVec | steps | stability | activity =>
    exact writeSlot_withCfg fun _ => rfl
  | subOther =>
    simp only [rowAction, actSubOther]
    split <;> rfl

/-- Settles O18: what is retained has the same row or is too short for both; and the first 20 bytes decide. -/
theorem overflowNeverChangesAnOutcome : Obligations.OverflowNeverChangesAnOutcome := by
  intro s channel p r hw hc
  obtain ⟨hcap, -⟩ := configWf_capacity hw
  refine ⟨?_, fun h20 c t hc20 ht => ?_⟩
  · obtain ⟨q, hq, hsame⟩ := classify_take hcap hc
    have haction : rowAction q channel (p.take s.session.cfg.capacity) s.session =
        rowAction r channel (p.take s.session.cfg.capacity) s.session := by
      obtain rfl | ⟨hshort, hshort'⟩ := hsame
      · rfl
      · rw [rowAction_tooShort channel _ hshort, rowAction_tooShort channel _ hshort']
    have hlen : (p.take s.session.cfg.capacity).length ≤ s.session.cfg.capacity := List.length_take_le _ _
    exact (exec_decode hw hq hlen haction).trans (exec_row r channel hw rfl).symm
  · obtain ⟨⟨o, u⟩, hrow⟩ : ∃ d, rowAction r channel (p.take s.session.cfg.capacity) s.session = d := ⟨_, rfl⟩
    cases ht.symm.trans (exec_row r channel hw hrow)
    have hcfg : u.cfg = s.session.cfg := by
      rw [← rowAction_cfg r channel (p.take s.session.cfg.capacity) s.session, hrow]
    have hw' : configWf { s.session.cfg with capacity := c } = true := by
      rw [configWf_iff] at hw ⊢
      obtain ⟨hlow, hhigh, -, hrest⟩ := hw
      exact ⟨hlow, hhigh, Nat.le_trans (by decide) hc20, hrest⟩
    have haction := rowAction_withCfg r channel p s.session { s.session.cfg with capacity := c }
    rw [← rowAction_take (n := c) _ _ _ hc20, ← rowAction_take _ _ s.session h20, hrow] at haction
    have hnew := exec_row (s := { s with session := s.session.withCfg { s.session.cfg with capacity := c } }) r channel
      hw' haction
    rw [State.after_session, hcfg]
    exact hnew

end Sys2Proof.Machine
end

section
/-! SUPPORT. The framer's family, continued (40_framer.md): the outbound rows, the chunk reads that are interrupted by a
failure, and the header row. -/

namespace Sys2Proof.Machine

/-! ### The outbound rows (R112 part B) -/

/-- The instruction of an outbound row, whose operation is the send of its packet, answers what the send does. -/
theorem exec_of_send {i : Instr} {s : State} {channel : Byte} {p : Bytes} {a : Answer} {rest : List Answer}
    (hi : operationOf i ⟨s.session, s.bus⟩ = (sendOp channel p ⟨s.session, s.bus⟩).bind fun r => .done (.sent r.1, r.2))
    (hw : configWf s.session.cfg = true) (hc : channel.toNat < nchan) (hp : p.length ≤ 17)
    (ha : s.bus.answers = a :: rest) :
    exec i s = .next (s.after (.sent (writeResult a))
      { s.session with seq := s.session.seq.set channel.toNat (s.session.seq[channel.toNat] + 1) }
      (s.bus.advance 1 (writeEvents (packetBytes channel s.session.seq[channel.toNat] p) a))) := by
  obtain ⟨hceil, -⟩ := configWf_ceiling hw
  have hl : p.length ≤ 32763 := by omega
  have ht : p.length + 4 ≤ s.session.cfg.ceiling := by omega
  exact exec_of_run hi hw (sendOp_listed (w := ⟨s.session, s.bus⟩) hc hl ht ha)

/-- Settles O20: each outbound row is the send of its packet, whose bytes are the image of the row. -/
theorem outboundRowsSendTheirPackets : Obligations.OutboundRowsSendTheirPackets := by
  intro s a rest hw ha
  refine ⟨fun rr micros c => ?_, ?_, ?_⟩
  · rw [← packetBytes_setFeature]
    exact exec_of_send (i := .outSetf rr micros c) (channel := Channel.control.code) (p := setFeaturePayload rr micros c)
      rfl hw (by decide) (Nat.le_refl 17) ha
  · rw [← packetBytes_softReset]
    exact exec_of_send (i := .outSrst) (channel := Channel.executable.code) (p := [softResetByte]) rfl hw (by decide) (by decide) ha
  · rw [← packetBytes_productId]
    exact exec_of_send (i := .outPidq) (channel := Channel.control.code) (p := [idProductIdRequest, 0x00]) rfl hw (by decide) (by decide) ha

/-! ### Chunk reads that fail (R140) -/

theorem fullChunks_cons {ceiling : Nat} {piece : Bytes × Bytes} {pieces : List (Bytes × Bytes)} :
    fullChunks ceiling (piece :: pieces) = true ↔
      (piece.1.length = 4 ∧ piece.2.length = ceiling - 4) ∧ fullChunks ceiling pieces = true := by
  simp [fullChunks]

/-- The size of the chunk that is asked for after so many full ones. -/
def nextChunk (ceiling remaining pieces : Nat) : Nat := min (remaining - pieces * (ceiling - 4)) (ceiling - 4)

/-- A chunk loop that reads full chunks and then meets a failure stops there, and drops what it gathered. -/
theorem readChunks_interrupted {cfg : Config} (hc : 5 ≤ cfg.ceiling) {pieces : List (Bytes × Bytes)} {bad : Answer}
    {rest : List Answer} {fuel remaining : Nat} {held : Bytes} {b : Bus}
    (ha : b.answers = pieceAnswers pieces ++ bad :: rest) (hfull : fullChunks cfg.ceiling pieces = true)
    (hmore : pieces.length * (cfg.ceiling - 4) < remaining) (hf : remaining ≤ fuel)
    (hbad : readResult (nextChunk cfg.ceiling remaining pieces.length + 4) bad = none) :
    readChunks cfg fuel remaining held b = .done (none, b.advance (pieces.length + 1)
      (pieceEvents pieces ++ [.read (nextChunk cfg.ceiling remaining pieces.length + 4) none])) := by
  obtain ⟨fuel, rfl⟩ : ∃ k, fuel = k + 1 := ⟨fuel - 1, by omega⟩
  have hne : remaining ≠ 0 := by omega
  induction pieces generalizing remaining held fuel b with
  | nil =>
    have hk : nextChunk cfg.ceiling remaining 0 = min remaining (cfg.ceiling - 4) := by simp [nextChunk]
    rw [List.length_nil, hk] at hbad ⊢
    rw [readChunks, if_neg hne, busRead_listed _ ha, hbad]
    rfl
  | cons piece pieces ih =>
    obtain ⟨⟨h4, hsize⟩, hfull⟩ := fullChunks_cons.1 hfull
    rw [List.length_cons, Nat.succ_mul] at hmore
    have hmin : min remaining (cfg.ceiling - 4) = piece.2.length := by omega
    have hk : nextChunk cfg.ceiling remaining (pieces.length + 1) =
        nextChunk cfg.ceiling (remaining - piece.2.length) pieces.length := by
      rw [nextChunk, nextChunk, Nat.succ_mul, hsize, Nat.sub_sub, Nat.add_comm]
    rw [List.length_cons, hk] at hbad ⊢
    obtain ⟨fuel, rfl⟩ : ∃ k, fuel = k + 1 := ⟨fuel - 1, by omega⟩
    have hrest := ih (b := b.advance 1 [.read (piece.2.length + 4) (some (piece.1 ++ piece.2))])
      (held := storePayload cfg.capacity held ((piece.1 ++ piece.2).drop 4)) (remaining := remaining - piece.2.length)
      (by simp [ha, pieceAnswers]) hfull (by omega) hbad fuel (by omega) (by omega)
    rw [readChunks, if_neg hne, hmin, busRead_piece h4 ha, Run.bind_done]
    simp only [hrest]
    simp [pieceEvents, Nat.add_comm]

/-- After a header that tells of more payload than the full chunks carry, the failure of the next one is `truncated`. -/
theorem afterProbe_interrupted {cfg : Config} (hc : 5 ≤ cfg.ceiling) {h : Header} {pieces : List (Bytes × Bytes)}
    {bad : Answer} {rest : List Answer} {b : Bus} (ha : b.answers = pieceAnswers pieces ++ bad :: rest)
    (hfull : fullChunks cfg.ceiling pieces = true) (hmore : pieces.length * (cfg.ceiling - 4) + 4 < h.length.toNat)
    (hbad : readResult (nextChunk cfg.ceiling (h.length.toNat - 4) pieces.length + 4) bad = none) :
    afterProbe cfg h b = .done (.truncated, b.advance (pieces.length + 1) (pieceEvents pieces ++
      [.read (nextChunk cfg.ceiling (h.length.toNat - 4) pieces.length + 4) none, .raised .truncated])) := by
  rw [afterProbe, if_neg (headerRaw_ne_zero (by omega)), if_neg (by omega),
    readChunks_interrupted hc ha hfull (by omega) (Nat.le_refl _) hbad]
  simp

/-- A probe that is no 4 bytes ends the deframe (R140). -/
theorem deframeOp_probeFailed {cfg : Config} {b : Bus} {a : Answer} {rest : List Answer}
    (ha : b.answers = a :: rest) (hbad : readResult 4 a = none) :
    deframeOp cfg b = .done (.transportError, b.advance 1 [.read 4 none, .raised .transportError]) := by
  simp [deframeOp, busRead_listed 4 ha, hbad]

theorem configWf_chunk {c : Config} (h : configWf c = true) : 5 ≤ c.ceiling :=
  Nat.le_trans (by decide) (configWf_ceiling h).1

/-- Settles O24: the probe fails at once, or the chunk loop after it is interrupted. -/
theorem deframeReportsTransportFailures : Obligations.DeframeReportsTransportFailures := by
  intro s hw
  refine ⟨fun a rest ha hbad => exec_deframe hw (deframeOp_probeFailed ha hbad), ?_⟩
  intro h pieces bad rest ha hfull hmore k hbad
  have e := deframeOp_probed (cfg := s.session.cfg) (Laws.header_read_bytes h) ha
  rw [afterProbe_interrupted (configWf_chunk hw) (rest := rest) (by simp [ha]) hfull hmore hbad, Bus.advance_advance,
    Nat.add_comm] at e
  exact exec_deframe hw e

/-! ### The header row (log 14) -/

/-- A header row answers what its operation does; only the transport changes. -/
theorem exec_header {s : State} {h : Header} {d : DeframeResult × Bus} (hw : configWf s.session.cfg = true)
    (e : afterProbe s.session.cfg h s.bus = .done d) :
    exec (.header h) s = .next (s.after (.deframed d.1) s.session d.2) :=
  exec_of_run (i := .header h) (f := fun d => (.deframed d.1, ⟨s.session, d.2⟩)) rfl hw e

theorem exec_header_returned {s t : State} {h : Header} (e : exec (.header h) s = .next t) (hp : t.inProgress = none) :
    configWf s.session.cfg = true ∧
      ∃ d, afterProbe s.session.cfg h s.bus = .done d ∧ t = s.after (.deframed d.1) s.session d.2 :=
  run_of_exec rfl e hp

/-- Settles O26: the header row is the deframe after its probe, which finds nothing, is delivered, or is interrupted. -/
theorem headerRowsReadTheirChunks : Obligations.HeaderRowsReadTheirChunks := by
  intro s h hw
  refine ⟨fun hl => ?_, fun pieces p rest hp hl hd ha => ?_, ?_⟩
  · rw [← raise_eq_advance]
    exact exec_header hw (afterProbe_noData _ _ hl)
  · exact exec_header hw (afterProbe_delivered (configWf_chunk hw) hp hl hd ha)
  · intro pieces bad rest ha hfull hmore k hbad
    exact exec_header hw (afterProbe_interrupted (configWf_chunk hw) ha hfull hmore hbad)

/-! ### The continuation flag (R136) -/

/-- With payload to come, the flag is not looked at; without, there is nothing to read. -/
theorem afterProbe_continuation (cfg : Config) (h : Header) (flag : Bool) (b : Bus) :
    afterProbe cfg { h with continuation := flag } b = afterProbe cfg h b := by
  obtain hl | hl := Nat.lt_or_ge 4 h.length.toNat
  · rw [afterProbe, afterProbe, if_neg (headerRaw_ne_zero hl),
      if_neg (headerRaw_ne_zero (h := { h with continuation := flag }) hl)]
  · rw [afterProbe_noData cfg b hl, afterProbe_noData cfg b (h := { h with continuation := flag }) hl]

/-- Settles O28: the two headers go on alike, and a deframe goes on from its probe as the header row does. -/
theorem continuationFlagIsIgnored : Obligations.ContinuationFlagIsIgnored := by
  intro s h
  refine ⟨?_, fun rest t ha ht hp => ?_⟩
  · rw [exec_eq_perform, exec_eq_perform]
    refine congrArg (perform s) (funext fun w => ?_)
    simp only [operationOf, afterProbe_continuation]
  · obtain ⟨hw, d, hd, rfl⟩ := exec_header_returned ht hp
    exact exec_deframe hw ((deframeOp_probed (Laws.header_read_bytes h) ha).trans hd)

end Sys2Proof.Machine
end

section
/-! SUPPORT. The converter's family, continued (44_converter.md): `dequantize` is exact, and so is what the read port
delivers. -/

namespace Sys2Proof.Machine

/-! ### The fields of a binary32 (GK1) -/

theorem packFloat_toNat {negative : Bool} {exponent fraction : Nat} (he : exponent < 256) (hf : fraction < 2 ^ 23) :
    (packFloat negative exponent fraction).toNat = (if negative then 2 ^ 31 else 0) + exponent * 2 ^ 23 + fraction := by
  rw [packFloat, BitVec.toNat_ofNat]
  refine Nat.mod_eq_of_lt ?_
  split <;> omega

theorem packFloat_exponent {negative : Bool} {exponent fraction : Nat} (he : exponent < 256) (hf : fraction < 2 ^ 23) :
    ((packFloat negative exponent fraction).extractLsb' 23 8).toNat = exponent := by
  rw [BitVec.extractLsb'_toNat, packFloat_toNat he hf, Nat.shiftRight_eq_div_pow]
  split <;> omega

theorem packFloat_fraction {negative : Bool} {exponent fraction : Nat} (he : exponent < 256) (hf : fraction < 2 ^ 23) :
    ((packFloat negative exponent fraction).extractLsb' 0 23).toNat = fraction := by
  rw [BitVec.extractLsb'_toNat, packFloat_toNat he hf, Nat.shiftRight_eq_div_pow]
  split <;> omega

theorem packFloat_sign {negative : Bool} {exponent fraction : Nat} (he : exponent < 256) (hf : fraction < 2 ^ 23) :
    (packFloat negative exponent fraction).getLsbD 31 = negative := by
  rw [BitVec.getLsbD, packFloat_toNat he hf, Nat.testBit_eq_decide_div_mod_eq]
  cases negative
  · simp only [Bool.false_eq_true, if_false, decide_eq_false_iff_not]
    omega
  · simp only [if_true, decide_eq_true_eq]
    omega

/-- The magnitude that exponent and fraction stand for: without the hidden bit in a subnormal, with it else. -/
def fieldValue (exponent fraction : Nat) : Rat :=
  if exponent = 0 then fraction * (2 : Rat) ^ (-149 : Int) else (2 ^ 23 + fraction) * (2 : Rat) ^ ((exponent : Int) - 150)

theorem floatValue_packFloat {negative : Bool} {exponent fraction : Nat} (he : exponent < 256)
    (hf : fraction < 2 ^ 23) :
    floatValue (packFloat negative exponent fraction) = (if negative then -1 else 1) * fieldValue exponent fraction := by
  simp only [floatValue, packFloat_sign he hf, packFloat_exponent he hf, packFloat_fraction he hf, fieldValue]
  split <;> ring

/-! ### The number that `dequantize` packs -/

theorem sext16_eq_sign_mul_magnitude (raw : Word16) :
    (sext16 raw : Rat) = (if decide (sext16 raw < 0) then -1 else 1) * (magnitude raw : Rat) := by
  have hcast : (magnitude raw : Rat) = ((sext16 raw).natAbs : Int) := by simp [magnitude]
  by_cases h : sext16 raw < 0
  · have hneg : sext16 raw = -((sext16 raw).natAbs : Int) := by omega
    rw [hcast, decide_eq_true h, if_pos rfl]
    exact_mod_cast (by omega : sext16 raw = -1 * ((sext16 raw).natAbs : Int))
  · rw [hcast, decide_eq_false h, if_neg Bool.false_ne_true]
    exact_mod_cast (by omega : sext16 raw = 1 * ((sext16 raw).natAbs : Int))

theorem sext16_eq_zero {raw : Word16} : sext16 raw = 0 ↔ raw = 0 := by
  have hlt := raw.isLt
  have hzero : raw = 0 ↔ raw.toNat = 0 := by simp [← BitVec.toNat_inj]
  rw [hzero, sext16]
  split <;> omega

theorem magnitude_eq_zero {raw : Word16} : magnitude raw = 0 ↔ raw = 0 := by
  rw [magnitude, Int.natAbs_eq_zero, sext16_eq_zero]

theorem magnitude_le (raw : Word16) : magnitude raw ≤ 2 ^ 15 := by
  have hlt := raw.isLt
  rw [magnitude, sext16]
  split <;> omega

theorem magnitude_log2_le (raw : Word16) (h : magnitude raw ≠ 0) : Nat.log2 (magnitude raw) ≤ 15 :=
  Nat.lt_succ_iff.1 ((Nat.log2_lt h).2 (Nat.lt_of_le_of_lt (magnitude_le raw) (by decide)))

/-- With its leading bit moved to place 23, a magnitude is the hidden bit and a fraction. -/
theorem leadingBit_shift {m top : Nat} (hlow : 2 ^ top ≤ m) (hhigh : m < 2 ^ (top + 1)) (htop : top ≤ 15) :
    2 ^ 23 ≤ m * 2 ^ (23 - top) ∧ m * 2 ^ (23 - top) < 2 ^ 24 := by
  constructor
  · calc 2 ^ 23 = 2 ^ top * 2 ^ (23 - top) := by rw [← pow_add]; congr 1; omega
      _ ≤ m * 2 ^ (23 - top) := Nat.mul_le_mul_right _ hlow
  · calc m * 2 ^ (23 - top) < 2 ^ (top + 1) * 2 ^ (23 - top) := Nat.mul_lt_mul_of_pos_right hhigh (by positivity)
      _ = 2 ^ 24 := by rw [← pow_add]; congr 1; omega

/-- A magnitude whose leading bit has an exponent from -126 to 127 is a normal number. -/
theorem fieldValue_normal {m top : Nat} {q : Int} (hlow : 2 ^ top ≤ m) (hhigh : m < 2 ^ (top + 1)) (htop : top ≤ 15)
    (hq : -126 ≤ (top : Int) - q) :
    fieldValue ((top : Int) - q + 127).toNat (m * 2 ^ (23 - top) - 2 ^ 23) = m * (2 : Rat) ^ (-q) := by
  obtain ⟨hge, -⟩ := leadingBit_shift hlow hhigh htop
  have hexponent : ((((top : Int) - q + 127).toNat : Nat) : Int) - 150 = top - q - 23 := by omega
  have hplace : ((2 : Rat) ^ (23 - top) : Rat) = 2 ^ ((23 : Int) - top) := by
    rw [← zpow_natCast]; congr 1; omega
  have hsignificand : (2 : Rat) ^ 23 + ((m * 2 ^ (23 - top) - 2 ^ 23 : Nat) : Rat) = m * 2 ^ ((23 : Int) - top) := by
    rw [← hplace]
    exact_mod_cast Nat.add_sub_of_le hge
  rw [fieldValue, if_neg (by omega), hexponent, hsignificand, mul_assoc, ← zpow_add₀ two_ne_zero]
  congr 2
  omega

/-- A magnitude below 2^-126 in the domain is 2^-127, a subnormal. -/
theorem fieldValue_subnormal (m : Nat) {q : Int} (hq : q ≤ 127) :
    fieldValue 0 (m * 2 ^ (149 - q).toNat) = m * (2 : Rat) ^ (-q) := by
  have hplace : ((2 : Rat) ^ (149 - q).toNat : Rat) = 2 ^ (149 - q) := by
    rw [← zpow_natCast]; congr 1; omega
  rw [fieldValue, if_pos rfl]
  push_cast
  rw [hplace, mul_assoc, ← zpow_add₀ two_ne_zero]
  congr 2
  omega

/-- In its domain `dequantize` of a word that is not 0 packs, with the word's sign, finite fields that stand exactly for
the word's magnitude times 2^(-q). -/
theorem dequantizeBits_eq_packFloat {raw : Word16} {q : Int} (hraw : raw ≠ 0) (h : -112 ≤ q ∧ q ≤ 127) :
    ∃ exponent fraction : Nat, dequantizeBits raw q = packFloat (decide (sext16 raw < 0)) exponent fraction ∧
      exponent < 255 ∧ fraction < 2 ^ 23 ∧ fieldValue exponent fraction = magnitude raw * (2 : Rat) ^ (-q) := by
  have hm : magnitude raw ≠ 0 := mt magnitude_eq_zero.1 hraw
  have htop := magnitude_log2_le raw hm
  have hlow := Nat.log2_self_le hm
  have hhigh := @Nat.lt_log2_self (magnitude raw)
  rw [dequantizeBits]
  simp only [hm, if_false]
  split
  next hnormal =>
    obtain ⟨-, hlt⟩ := leadingBit_shift hlow hhigh htop
    exact ⟨_, _, rfl, by omega, by omega, fieldValue_normal hlow hhigh htop hnormal⟩
  next hsub =>
    obtain ⟨hzero, rfl⟩ : Nat.log2 (magnitude raw) = 0 ∧ q = 127 := by omega
    have hone : magnitude raw = 1 := by
      rw [hzero] at hhigh
      omega
    exact ⟨_, _, rfl, by decide, by rw [hone]; decide, fieldValue_subnormal _ (Int.le_refl _)⟩

theorem dequantizeBits_zero (q : Int) : dequantizeBits 0 q = 0 := by
  simp [dequantizeBits, magnitude, sext16]

theorem dequantizeBits_sign {raw : Word16} {q : Int} (hraw : raw ≠ 0) (h : -112 ≤ q ∧ q ≤ 127) :
    (dequantizeBits raw q).getLsbD 31 = decide (sext16 raw < 0) := by
  obtain ⟨e, f, hbits, he, hf, -⟩ := dequantizeBits_eq_packFloat hraw h
  rw [hbits, packFloat_sign (by omega) hf]

theorem dequantizeBits_finite (raw : Word16) {q : Int} (h : -112 ≤ q ∧ q ≤ 127) :
    floatFinite (dequantizeBits raw q) = true := by
  by_cases hraw : raw = 0
  · rw [hraw, dequantizeBits_zero]
    decide
  · obtain ⟨e, f, hbits, he, hf, -⟩ := dequantizeBits_eq_packFloat hraw h
    rw [hbits, floatFinite, packFloat_exponent (by omega) hf]
    exact decide_eq_true (by omega)

/-- R210: no rounding. -/
theorem floatValue_dequantizeBits (raw : Word16) {q : Int} (h : -112 ≤ q ∧ q ≤ 127) :
    floatValue (dequantizeBits raw q) = (sext16 raw : Rat) * 2 ^ (-q) := by
  by_cases hraw : raw = 0
  · rw [sext16_eq_zero.2 hraw, hraw, dequantizeBits_zero]
    simp [floatValue]
  · obtain ⟨e, f, hbits, he, hf, hvalue⟩ := dequantizeBits_eq_packFloat hraw h
    rw [hbits, floatValue_packFloat (by omega) hf, hvalue, sext16_eq_sign_mul_magnitude, mul_assoc]

/-- A negative zero would have the value 0, which only the word 0 has, and that gives +0.0 (R212). -/
theorem dequantizeBits_ne_negativeZero (raw : Word16) {q : Int} (h : -112 ≤ q ∧ q ≤ 127) :
    dequantizeBits raw q ≠ 0x80000000 := by
  intro hbits
  have hvalue := floatValue_dequantizeBits raw h
  rw [hbits, show floatValue 0x80000000 = 0 by simp [floatValue]] at hvalue
  have hword : sext16 raw = 0 := by
    have := (mul_eq_zero.1 hvalue.symm).resolve_right (zpow_ne_zero _ two_ne_zero)
    exact_mod_cast this
  rw [sext16_eq_zero.1 hword, dequantizeBits_zero] at hbits
  exact absurd hbits (by decide)

/-- Settles O32: the result is `dequantizeBits`, whose fields stand exactly for the word's magnitude. -/
theorem dequantizeIsExact : Obligations.DequantizeIsExact := by
  intro s raw q hw hlo hhi
  exact ⟨dequantizeBits raw q, exec_dequantize raw hw ⟨hlo, hhi⟩, dequantizeBits_finite raw ⟨hlo, hhi⟩,
    floatValue_dequantizeBits raw ⟨hlo, hhi⟩, fun h => h ▸ dequantizeBits_zero q,
    fun h => dequantizeBits_sign h ⟨hlo, hhi⟩, dequantizeBits_ne_negativeZero raw ⟨hlo, hhi⟩⟩

/-! ### The read port (R37, R215) -/

/-- With an exponent of a configuration (R7), the physical value is a finite binary32 and exact. -/
theorem physicalValue_exact (raw : Word16) {q : Nat} (h : q ≤ 15) :
    floatFinite (physicalValue raw q) = true ∧
      floatValue (physicalValue raw q) = (sext16 raw : Rat) * 2 ^ (-(q : Int)) :=
  ⟨dequantizeBits_finite raw (by omega), floatValue_dequantizeBits raw (by omega)⟩

theorem map_physicalValue_exact (raw : Option Word16) {q : Nat} (h : q ≤ 15) :
    (raw.map fun w => physicalValue w q).map floatValue = raw.map fun w => (sext16 w : Rat) * 2 ^ (-(q : Int)) := by
  rw [Option.map_map]
  exact Option.map_congr fun w _ => (physicalValue_exact w h).2

theorem radianAccuracyValue_given {cfg : Config} {q : Nat} (h : cfg.qRotAcc = some q) (raw : Option Word16) :
    radianAccuracyValue cfg raw = raw.map fun w => physicalValue w q := by
  cases raw <;> simp [radianAccuracyValue, h]

theorem radianAccuracyValue_eq_none {cfg : Config} {raw : Option Word16} (h : raw = none ∨ cfg.qRotAcc = none) :
    radianAccuracyValue cfg raw = none := by
  obtain h | h := h
  · simp [radianAccuracyValue, h]
  · cases raw <;> simp [radianAccuracyValue, h]

/-- What is held in a triplet slot is read with the exact values of its three words. -/
theorem tripletView_exact {q : Nat} (hq : q ≤ 15) (r : Triplet) : ∃ x y z, tripletView q r = .triplet r x y z ∧
    (floatFinite x = true ∧ floatValue x = (sext16 r.x : Rat) * 2 ^ (-(q : Int))) ∧
    (floatFinite y = true ∧ floatValue y = (sext16 r.y : Rat) * 2 ^ (-(q : Int))) ∧
    (floatFinite z = true ∧ floatValue z = (sext16 r.z : Rat) * 2 ^ (-(q : Int))) :=
  ⟨_, _, _, rfl, physicalValue_exact r.x hq, physicalValue_exact r.y hq, physicalValue_exact r.z hq⟩

/-- Settles O5: a held record is shown as it is, its words through `physicalValue_exact`; nothing held, nothing
shown. -/
theorem readPortGivesPhysicalValues : Obligations.ReadPortGivesPhysicalValues := by
  intro s hw
  obtain ⟨-, -, -, -, hAccel, hLin, hGyro, hMag, hRot, hAcc⟩ := (configWf_iff _).1 hw
  refine ⟨?_, ?_, ?_, ?_, ?_, ?_, ?_, ?_, ?_, ?_, ?_⟩
  · rintro q r p (⟨rfl, hr, rfl⟩ | ⟨rfl, hr, rfl⟩ | ⟨rfl, hr, rfl⟩ | ⟨rfl, hr, rfl⟩)
    · simpa [readPort, hr] using tripletView_exact hAccel r
    · simpa [readPort, hr] using tripletView_exact hLin r
    · simpa [readPort, hr] using tripletView_exact hGyro r
    · simpa [readPort, hr] using tripletView_exact hMag r
  · intro r hr
    refine ⟨_, _, _, _, _, by rw [readPort, hr, Option.map_some, quaternionView],
      (physicalValue_exact r.i hRot).2, (physicalValue_exact r.j hRot).2, (physicalValue_exact r.k hRot).2,
      map_physicalValue_exact r.real hRot, fun q hq => ?_, fun hq => radianAccuracyValue_eq_none (.inr hq)⟩
    rw [radianAccuracyValue_given hq, map_physicalValue_exact r.radAcc (hAcc q hq)]
  · intro r hr
    rw [readPort, hr, Option.map_some]
  · intro r hr
    rw [readPort, hr, Option.map_some]
  · intro r hr
    rw [readPort, hr, Option.map_some]
  · intro r hr
    rw [readPort, hr, Option.map_some]
  · intro r w hr hreal
    exact ⟨_, by simp [readPort, hr, hreal], physicalValue_exact w hRot⟩
  · intro r w q hr hacc hq
    exact ⟨_, by simp [readPort, hr, hacc, radianAccuracyValue_given hq], physicalValue_exact w (hAcc q hq)⟩
  · intro r hr hreal
    simp [readPort, hr, hreal]
  · intro r hr h
    simp [readPort, hr, radianAccuracyValue_eq_none h]
  · simp +contextual [readPort]

end Sys2Proof.Machine
end

section
/-! SUPPORT. The session's family, continued (45_session.md sections 2 to 4): the accounting, the replay and its order, and
the operations on an idle hub. -/

namespace Sys2Proof.Machine

/-! ### Accounting (R229, R230) -/

theorem exec_account {s : State} {failedNow : Bool} {r : AccountResult × Work} (hw : configWf s.session.cfg = true)
    (h : accountOp failedNow ⟨s.session, s.bus⟩ = .done r) :
    exec (.account failedNow) s = .next (s.after (.accounted r.1) r.2.session r.2.bus) :=
  exec_of_run (i := .account failedNow) (f := fun r => (.accounted r.1, r.2)) rfl hw h

/-- Settles O43: the accounting clears, absorbs or trips, and a trip leaves what its reset sequence left. -/
theorem accountCountsAndTrips : Obligations.AccountCountsAndTrips := by
  intro s hw
  refine ⟨exec_account hw (accountOp_cleared _), fun hlt => exec_account hw (accountOp_absorbed hlt), ?_⟩
  intro hle t ht hp
  obtain ⟨-, r, hr, rfl⟩ := exec_resetSequence_returned ht hp
  obtain ⟨hfsm, hsession⟩ := resetOp_restarted hr
  exact ⟨exec_account hw (accountOp_tripped hle hr), (congrArg Session.failCount hsession).trans rfl, hfsm⟩

/-! ### The order of the replay (R228) -/

/-- The ids of a canonical record find its entries, in the order of the record. -/
theorem filterMap_activeLookup_self {l : List ActiveEntry} (h : activeCanonical l = true) :
    (l.map (·.reportId)).filterMap (fun r => activeLookup r l) = l := by
  rw [List.filterMap_map]
  calc l.filterMap ((fun r => activeLookup r l) ∘ (·.reportId)) = l.filterMap some :=
        List.filterMap_congr fun e he => activeLookup_self h he
    _ = l := List.filterMap_some

/-- Recorded ids find entries that have these ids, in their order. -/
theorem map_reportId_filterMap_activeLookup {l : List ActiveEntry} (h : activeCanonical l = true) {order : List Byte}
    (ho : order.Perm (l.map (·.reportId))) :
    (order.filterMap (fun r => activeLookup r l)).map (·.reportId) = order := by
  have hfound : ∀ r ∈ order, (activeLookup r l).map (·.reportId) = some r := by
    intro r hr
    obtain ⟨e, he, rfl⟩ := List.mem_map.1 (ho.mem_iff.1 hr)
    rw [activeLookup_self h he, Option.map_some]
  rw [List.map_filterMap]
  calc order.filterMap (fun r => (activeLookup r l).map (·.reportId)) = order.filterMap some :=
        List.filterMap_congr hfound
    _ = order := List.filterMap_some

/-- The chosen order lists just the ids that are recorded. -/
theorem replayOrder_perm (cfg : Config) (ids : List Byte) : (replayOrder cfg ids).Perm ids := by
  unfold replayOrder
  cases hfind : cfg.replayOrders.find? (fun order => order.isPerm ids) with
  | none => exact List.Perm.refl _
  | some order =>
    have hfits := List.find?_some hfind
    exact List.isPerm_iff.1 hfits

/-- The first listed order that fits is chosen. -/
theorem replayOrder_first {cfg : Config} {ids order : List Byte} {before after : List (List Byte)}
    (hl : cfg.replayOrders = before ++ order :: after) (hbefore : ∀ o ∈ before, ¬ o.Perm ids) (ho : order.Perm ids) :
    replayOrder cfg ids = order := by
  have hnone : before.find? (fun o => o.isPerm ids) = none :=
    List.find?_eq_none.2 fun o hmem => mt List.isPerm_iff.1 (hbefore o hmem)
  have hfirst : (order :: after).find? (fun o => o.isPerm ids) = some order :=
    List.find?_cons_of_pos (List.isPerm_iff.2 ho)
  rw [replayOrder, hl, List.find?_append, hnone, Option.none_or, hfirst, Option.getD_some]

/-- With no listed order that fits, the ids stay in the order of the record. -/
theorem replayOrder_default {cfg : Config} {ids : List Byte} (h : ∀ o ∈ cfg.replayOrders, ¬ o.Perm ids) :
    replayOrder cfg ids = ids := by
  rw [replayOrder, List.find?_eq_none.2 fun o hmem => mt List.isPerm_iff.1 (h o hmem), Option.getD_none]

/-- Settles O45: the ids of the chosen order find each entry of the record once. -/
theorem replayOrderCoversTheRecord : Obligations.ReplayOrderCoversTheRecord := by
  intro s hrecord
  refine ⟨?_, fun before after order hl hbefore ho => ?_, fun hnone => ⟨?_, (activeCanonical_iff _).1 hrecord⟩⟩
  · have hperm := (replayOrder_perm s.cfg (s.active.map (·.reportId))).filterMap fun r => activeLookup r s.active
    rwa [filterMap_activeLookup_self hrecord] at hperm
  · rw [replayEntries, replayOrder_first hl hbefore ho, map_reportId_filterMap_activeLookup hrecord ho]
  · rw [replayEntries, replayOrder_default hnone, filterMap_activeLookup_self hrecord]

/-! ### The replay's writes (R228) -/

/-- What a replay of these entries leaves behind that met these answers. -/
def Work.replayed (w : Work) (entries : List ActiveEntry) (taken : List Answer) : Work where
  session := { w.session with seq := w.session.seq.set 2 (w.session.seq[2] + BitVec.ofNat 8 taken.length) }
  bus := w.bus.advance taken.length (replayTrace w.session.seq[2] entries taken)

theorem Work.replayed_nil (w : Work) : w.replayed [] [] = w := by
  simp [Work.replayed, replayTrace]

theorem add_one_add_ofNat (ss : Byte) (n : Nat) : ss + 1 + BitVec.ofNat 8 n = ss + BitVec.ofNat 8 (n + 1) := by
  rw [Nat.add_comm n 1, BitVec.ofNat_add, ← BitVec.add_assoc]
  rfl

theorem replayTrace_singleton (ss : Byte) (e : ActiveEntry) (a : Answer) : replayTrace ss [e] [a] =
    writeEvents (setFeatureImage ss e.reportId (BitVec.ofNat 32 (e.intervalMillis * 1000)) e.specificConfig) a := by
  simp [replayTrace]

/-- What is left behind when one entry is sent and then the others. -/
theorem Work.replayed_cons (w : Work) (e : ActiveEntry) (entries : List ActiveEntry) (a : Answer)
    (taken : List Answer) :
    (w.replayed [e] [a]).replayed entries taken = w.replayed (e :: entries) (a :: taken) := by
  have hcount := add_one_add_ofNat w.session.seq[2] taken.length
  simp only [BitVec.ofNat_eq_ofNat] at hcount
  simp [Work.replayed, replayTrace, hcount, Nat.add_comm 1]

/-- One entry is one write of its set-feature packet. -/
theorem sendOp_replayed {w : Work} {e : ActiveEntry} {a : Answer} {rest : List Answer}
    (hc : 21 ≤ w.session.cfg.ceiling) (ha : w.bus.answers = a :: rest) :
    sendOp Channel.control.code
        (setFeaturePayload e.reportId (BitVec.ofNat 32 (e.intervalMillis * 1000)) e.specificConfig) w =
      .done (writeResult a, w.replayed [e] [a]) := by
  have hsend := sendOp_listed (w := w) (channel := Channel.control.code)
    (payload := setFeaturePayload e.reportId (BitVec.ofNat 32 (e.intervalMillis * 1000)) e.specificConfig)
    (by decide) (show 17 ≤ 32763 by decide) hc ha
  rw [packetBytes_setFeature] at hsend
  rw [hsend, Work.replayed, replayTrace_singleton]
  rfl

/-- The loop sends its entries one after another, and goes on after a failure (R228). -/
theorem replayLoop_listed {entries : List ActiveEntry} {taken rest : List Answer} {w : Work} (bad : Bool)
    (hc : 21 ≤ w.session.cfg.ceiling) (hms : ∀ e ∈ entries, e.intervalMillis ≤ 4294967)
    (ha : w.bus.answers = taken ++ rest) (hl : taken.length = entries.length) :
    replayLoop entries bad w = .done (bad || taken.any (fun a => !writeResult a), w.replayed entries taken) := by
  induction entries generalizing taken w bad with
  | nil =>
    obtain rfl := List.length_eq_zero_iff.1 hl
    rw [replayLoop, Work.replayed_nil, List.any_nil, Bool.or_false]
  | cons e entries ih =>
    cases taken with
    | nil => cases hl
    | cons a taken =>
      have hrest : (w.replayed [e] [a]).bus.answers = taken ++ rest := by simp [Work.replayed, ha]
      rw [replayLoop, setFeatureOp_inRange _ _ (hms e List.mem_cons_self), Run.bind_done, sendOp_replayed hc ha,
        Run.bind_done, ih (w := w.replayed [e] [a]) _ hc (fun f hf => hms f (List.mem_cons_of_mem _ hf)) hrest
          (Nat.succ.inj hl), Work.replayed_cons, List.any_cons, Bool.or_assoc]

/-- Settles O44: the replay is its loop over `replayEntries`, which are entries of the record. -/
theorem replaySendsEveryEntry : Obligations.ReplaySendsEveryEntry := by
  intro s taken rest hw hms ha hl
  have hloop := replayLoop_listed (w := ⟨s.session, s.bus⟩) false (configWf_ceiling hw).1
    (fun e he => hms e (replayEntries_mem he)) ha hl
  exact exec_of_run (i := .replay) (f := fun r => (.replayed r.1, r.2)) (x := replayOp ⟨s.session, s.bus⟩) rfl hw hloop

/-! ### An idle hub -/

/-- A probe that carries no payload ends its deframe without data. -/
theorem deframeOp_emptyProbe {probe : Bytes} (hp : emptyProbe probe = true) (cfg : Config) {b : Bus}
    {rest : List Answer} (ha : b.answers = .ok probe :: rest) :
    deframeOp cfg b = .done (.noData, b.advance 1 [.read 4 (some probe), .raised .emptyPacket]) := by
  obtain ⟨h, hread, hl⟩ := emptyProbe_header hp
  rw [deframeOp_probed hread ha, afterProbe_noData _ _ hl, raise_advance]
  rfl

/-- Two of them end a drain. -/
theorem drainOp_emptyProbes {p1 p2 : Bytes} (h1 : emptyProbe p1 = true) (h2 : emptyProbe p2 = true) (cfg : Config)
    {b : Bus} {rest : List Answer} (ha : b.answers = .ok p1 :: .ok p2 :: rest) :
    drainOp cfg b = .done (.completed, b.advance 2
      [.read 4 (some p1), .raised .emptyPacket, .read 4 (some p2), .raised .emptyPacket]) := by
  have ha2 : (b.advance 1 [.read 4 (some p1), .raised .emptyPacket]).answers = .ok p2 :: rest := by simp [ha]
  calc drainOp cfg b = drainFrom cfg 1 (b.advance 1 [.read 4 (some p1), .raised .emptyPacket]) :=
        drainFrom_deframed (by decide) (deframeOp_emptyProbe h1 cfg ha)
    _ = drainFrom cfg 2 _ := drainFrom_deframed (by decide) (deframeOp_emptyProbe h2 cfg ha2)
    _ = _ := by rw [drainFrom_two, Bus.advance_advance]; rfl

/-- The table after the soft-reset write: its number is spent, and where that is configured all are zeroed. -/
def Session.softResetTable (s : Session) : Vector Byte 6 :=
  if s.cfg.seqClearOnSoftReset then #v[0, 0, 0, 0, 0, 0] else s.seq.set 1 (s.seq[1] + 1)

/-- The reset sequence on an idle hub (the example of R223). -/
theorem resetOp_idleHub {w : Work} {x y p1 p2 : Bytes} {rest : List Answer} (hw : configWf w.session.cfg = true)
    (h1 : emptyProbe p1 = true) (h2 : emptyProbe p2 = true)
    (ha : w.bus.answers = .ok x :: .ok p1 :: .ok p2 :: .ok y :: rest) :
    resetOp w = .done (.completed,
      { session := { w.session with
          fsm := .awaitingHandshake, handshakeComplete := false, failCount := 0,
          seq := w.session.softResetTable.set 2 (w.session.softResetTable[2] + 1) },
        bus := w.bus.advance 4
          [.write (softResetImage w.session.seq[1]) true, .read 4 (some p1), .raised .emptyPacket, .read 4 (some p2),
           .raised .emptyPacket, .write (productIdImage w.session.softResetTable[2]) true] }) := by
  obtain ⟨hceil, -⟩ := configWf_ceiling hw
  have hsoft := sendOp_listed (w := ⟨enterResetting w.session, w.bus⟩) (channel := Channel.executable.code)
    (payload := [softResetByte]) (by decide) (by decide) (show 5 ≤ w.session.cfg.ceiling by omega) ha
  rw [packetBytes_softReset] at hsoft
  have hdrain := drainOp_emptyProbes h1 h2 w.session.cfg
    (b := w.bus.advance 1 [.write (softResetImage w.session.seq[1]) true]) (rest := .ok y :: rest) (by simp [ha])
  rw [Bus.advance_advance] at hdrain
  have hrequest := sendOp_listed (channel := Channel.control.code) (payload := [idProductIdRequest, 0x00])
    (w := ⟨{ enterResetting w.session with seq := w.session.softResetTable }, w.bus.advance 3
      [.write (softResetImage w.session.seq[1]) true, .read 4 (some p1), .raised .emptyPacket, .read 4 (some p2),
       .raised .emptyPacket]⟩) (a := .ok y) (rest := rest)
    (by decide) (by decide) (show 6 ≤ w.session.cfg.ceiling by omega) (by simp [ha])
  rw [packetBytes_productId, Bus.advance_advance] at hrequest
  exact resetOp_drained hsoft hdrain hrequest

/-- Settles O35: `open` and a `poll` in Resetting are the reset sequence on an idle hub, a drain is its two empty probes,
and any other `poll` is one of them. -/
theorem operationsOnIdleHub : Obligations.OperationsOnIdleHub := by
  intro s x y p1 p2 rest hw h1 h2 stamped table session bus
  refine ⟨fun ha => ?_, fun ha => exec_drain hw (drainOp_emptyProbes h1 h2 _ ha), fun ha hf => ?_⟩
  · have hreset : resetOp ⟨s.session, s.bus⟩ = .done (.completed, ⟨session, bus⟩) := resetOp_idleHub hw h1 h2 ha
    exact ⟨exec_resetSequence hw hreset,
      fun hf => exec_openSession hw (openOp_completed (openAdmitted_iff.2 hf) hreset),
      fun hf => exec_poll hw (pollOp_completed hf hreset)⟩
  · exact exec_poll_cleared hw (pollOp_noData hf (deframeOp_emptyProbe h1 _ ha))

end Sys2Proof.Machine
end
